-- ==== Sys2Proof/Word.lean ====
section
/-! DEFINITION. The word types of the SFC: the byte of the wire, the 32-bit operand word and the 48-bit operation word. -/

namespace Sys2Proof

/-- A byte: 8 bits, unsigned, bit 7 the most significant (R12). -/
abbrev Byte := BitVec 8

/-- The operand `VALUE`: a 32-bit word with no sign and no byte order of its own (R45, R76). -/
abbrev Word := BitVec 32

/-- The operation word `OPW` of the host interface, 48 bits (R74). -/
abbrev OpWord := BitVec 48

end Sys2Proof
end

