-- ==== Sys2Proof/Syntax.lean ====
section
/-! DEFINITION. The commands of the protocol and the instructions of the model: one constructor of `Instr` for each row of
spec/opcode_table.json. -/

namespace Sys2Proof

/-- The twelve transmittable commands, in the order of R68 and R77. -/
inductive TxCommand where
  | clearError
  | setControlMode
  | getActuatorInfo
  | clearShaftPosition
  | setWatchdog
  | setTrapezoidalVelocity
  | setTrapezoidalPosition
  | getPosition
  | getStatus
  | getDriveStatus
  | setVelocity
  | setShaftPosition
  deriving DecidableEq, Repr

/-- A Command value of the spec: one of thirteen (R18, R77). The spec's command `none`, which is never transmitted and never
stored in an entry (R69), is the `none` of the option, so that "never `none`" (R24) holds by the type. -/
abbrev Command := Option TxCommand

/-- The instructions: the fifteen host operations of R75 and the reserved select code of R78 (format `HOSTOP`), the twelve command
frames (`CMDF`, R61), the two bare bytes (`BARE`, R66) and the two reply frames (`REPF`, R65).

An operand is here as it stands in the encoding. The operand fields that R75 does not list for an operation are ignored by it and
are no operand here. -/
inductive Instr where
  /-- `NOP` (R128). -/
  | nop
  /-- `RESET` (R185). -/
  | reset
  /-- `ENCODE cmd, value, alen` (R97): the raw fields `CMD`, `ALEN` and `VALUE`, legal or not. -/
  | encode (cmd : BitVec 4) (alen : BitVec 3) (value : Word)
  /-- `ENQUEUE cmd, value, alen` (R121). -/
  | enqueue (cmd : BitVec 4) (alen : BitVec 3) (value : Word)
  /-- `POPNEXT` (R123). -/
  | popnext
  /-- `REPLYDONE` (R125). -/
  | replydone
  /-- `ISIDLE` (R126). -/
  | isidle
  /-- `CLEARQ` (R127). -/
  | clearq
  /-- `RXPUSH b`, `b = VALUE[7:0]` (R109). -/
  | rxpush (b : Byte)
  /-- `EXTRACT` (R106). -/
  | extract
  /-- `RXDROP n`, `n = VALUE` (R111). -/
  | rxdrop (n : Word)
  /-- `CHECKSUM n`, `n = VALUE` (R91). -/
  | checksum (n : Word)
  /-- `VALIDATE n`, `n = VALUE` (R93). -/
  | validate (n : Word)
  /-- `RXSTEP` (R140). -/
  | rxstep
  /-- `RXFLUSH` (R113). -/
  | rxflush
  /-- The reserved select code 15, whatever the other 44 bits hold (R78). -/
  | reservedOp15 (rest : BitVec 44)
  /-- The command frame of `clear-error`; `arg` is its argument, bytes 3 to 2+n (R61, R68). So for the eleven rows below. -/
  | clearError (arg : List Byte)
  /-- The command frame of `set-control-mode`. -/
  | setControlMode (arg : List Byte)
  /-- The command frame of `get-actuator-info`. -/
  | getActuatorInfo (arg : List Byte)
  /-- The command frame of `clear-shaft-position`. -/
  | clearShaftPosition (arg : List Byte)
  /-- The command frame of `set-watchdog`. -/
  | setWatchdog (arg : List Byte)
  /-- The command frame of `set-trapezoidal-velocity`. -/
  | setTrapezoidalVelocity (arg : List Byte)
  /-- The command frame of `set-trapezoidal-position`. -/
  | setTrapezoidalPosition (arg : List Byte)
  /-- The command frame of `get-position`. -/
  | getPosition (arg : List Byte)
  /-- The command frame of `get-status`. -/
  | getStatus (arg : List Byte)
  /-- The command frame of `get-drive-status`. -/
  | getDriveStatus (arg : List Byte)
  /-- The command frame of `set-velocity`. -/
  | setVelocity (arg : List Byte)
  /-- The command frame of `set-shaft-position`. -/
  | setShaftPosition (arg : List Byte)
  /-- The bare byte `ACK` (R66, R143). -/
  | ack
  /-- The bare byte `NAK` (R66, R144). -/
  | nak
  /-- A reply frame with the marker "status unchanged"; `rest` is the frame's bytes from offset 2 on, payload and checksum, and is
  empty for declared length 2 (R65). The checksum may be right or wrong (R146). -/
  | replyUnchanged (rest : List Byte)
  /-- A reply frame with the marker "status changed" (R65). -/
  | replyChanged (rest : List Byte)
  deriving DecidableEq, Repr

end Sys2Proof
end

