-- ==== Sys2Proof/Config.lean ====
section
/-! DEFINITION. The constants the document fixes (R6), the parameters it leaves without a value (R8), the constraints every
configuration meets (R9), and the one configuration of the machine after reset, which is a free value. -/

namespace Sys2Proof

/-- `ACK = 0x06` (R6). -/
def ackByte : Byte := 0x06

/-- `NAK = 0x15` (R6). -/
def nakByte : Byte := 0x15

/-- `OPC`: the wire opcode byte of each of the twelve transmittable commands (R8). -/
structure Opcodes where
  clearError : Byte
  setControlMode : Byte
  getActuatorInfo : Byte
  clearShaftPosition : Byte
  setWatchdog : Byte
  setTrapezoidalVelocity : Byte
  setTrapezoidalPosition : Byte
  getPosition : Byte
  getStatus : Byte
  getDriveStatus : Byte
  setVelocity : Byte
  setShaftPosition : Byte
  deriving DecidableEq, Repr

/-- The opcode byte of a command. -/
def Opcodes.byteOf (o : Opcodes) : TxCommand → Byte
  | .clearError => o.clearError
  | .setControlMode => o.setControlMode
  | .getActuatorInfo => o.getActuatorInfo
  | .clearShaftPosition => o.clearShaftPosition
  | .setWatchdog => o.setWatchdog
  | .setTrapezoidalVelocity => o.setTrapezoidalVelocity
  | .setTrapezoidalPosition => o.setTrapezoidalPosition
  | .getPosition => o.getPosition
  | .getStatus => o.getStatus
  | .getDriveStatus => o.getDriveStatus
  | .setVelocity => o.setVelocity
  | .setShaftPosition => o.setShaftPosition

/-- The twelve transmittable commands, in the order of R77. -/
def TxCommand.all : List TxCommand :=
  [.clearError, .setControlMode, .getActuatorInfo, .clearShaftPosition, .setWatchdog, .setTrapezoidalVelocity,
   .setTrapezoidalPosition, .getPosition, .getStatus, .getDriveStatus, .setVelocity, .setShaftPosition]

/-- The parameters of R8. A capacity is a number, or `none` for "unbounded". -/
structure Params where
  /-- `MARK_CMD`. -/
  markCmd : Byte
  /-- `MARK_REPLY_UNCHANGED`. -/
  markReplyUnchanged : Byte
  /-- `MARK_REPLY_CHANGED`. -/
  markReplyChanged : Byte
  /-- `OPC`. -/
  opcodes : Opcodes
  /-- `QDEPTH`. -/
  qdepth : Option Nat
  /-- `RXBUF_CAP`. -/
  rxbufCap : Option Nat
  deriving DecidableEq, Repr

/-- `OPC(c)` (R8). -/
def Params.opc (p : Params) (c : TxCommand) : Byte := p.opcodes.byteOf c

/-- A capacity of at least `k`; "unbounded" is at least any number. -/
def capAtLeast (k : Nat) : Option Nat → Bool
  | none => true
  | some n => decide (k ≤ n)

/-- The constraints of R9: (a) and (b) the five marker bytes are pairwise distinct, (c) `OPC` is injective, (d) `RXBUF_CAP >= 255`,
(e) `QDEPTH >= 1`. -/
def Params.legal (p : Params) : Bool :=
  decide [ackByte, nakByte, p.markReplyUnchanged, p.markReplyChanged, p.markCmd].Nodup
    && decide (TxCommand.all.map p.opc).Nodup
    && capAtLeast 255 p.rxbufCap
    && capAtLeast 1 p.qdepth

/-- A configuration: parameters that meet R9. "The SFC's rules are stated only for such configurations" (R187), so the proof stands
beside the data and no other configuration can be built. -/
structure Config extends Params where
  legal : toParams.legal = true
  deriving DecidableEq, Repr

/-- `TESTCFG` (R11), the reference configuration of 95_test_vectors.md. None of its values is the device's (D22); here it witnesses
that R9 can be met, and tests use it. -/
def Config.testcfg : Config where
  markCmd := 0x43
  markReplyUnchanged := 0x55
  markReplyChanged := 0x58
  opcodes :=
    { clearError := 0x21, setControlMode := 0x22, getActuatorInfo := 0x23, clearShaftPosition := 0x24, setWatchdog := 0x25,
      setTrapezoidalVelocity := 0x26, setTrapezoidalPosition := 0x27, getPosition := 0x28, getStatus := 0x29,
      getDriveStatus := 0x2A, setVelocity := 0x2B, setShaftPosition := 0x2C }
  qdepth := some 16
  rxbufCap := some 256
  legal := by decide

/-- Some configuration, given that there is one. FREE VALUE: it has no body, so nothing can be proved of it but that it meets R9
(R8, 92_eei_decisions.md D4, D5, D13, D14; notes/assumptions/2.md). -/
opaque Config.free [Inhabited Config] : Config

/-- The configuration of the machine after reset: the free one. -/
def Config.device : Config := @Config.free ⟨Config.testcfg⟩

end Sys2Proof
end

