-- ==== Sys2Proof/Machine/State.lean ====
section
/-! DEFINITION. The state of the SFC as plain data, the results of its operations, the reasons a step can stop (there are none but
"not modelled"), and the state after reset. -/

namespace Sys2Proof.Machine

/-- The outcome of the packet extractor (R105). -/
inductive Extraction where
  /-- "caller must wait for more data". -/
  | incomplete
  /-- "a full frame of `len` bytes starts at offset 0". -/
  | complete (len : Nat)
  /-- "`n` leading bytes are noise and must be dropped before re-scanning". -/
  | discard (n : Nat)
  deriving DecidableEq, Repr

/-- The kinds of a decoded reply (R149). -/
inductive Kind where
  /-- `K_STATUS`. -/
  | status
  /-- `K_POSITION`. -/
  | position
  /-- `K_DRIVE`. -/
  | drive
  /-- `K_INFO`. -/
  | info
  deriving DecidableEq, Repr

/-- The events of RXSTEP with result code `OK` (R149). -/
inductive Event where
  /-- `WAIT` (R141). -/
  | wait
  /-- `DISCARDED(n)` (R142). -/
  | discarded (n : Nat)
  /-- `ACKED` (R143). -/
  | acked
  /-- `DECODED(k, f)` (R148). -/
  | decoded (k : Kind) (f : List Byte)
  deriving DecidableEq, Repr

/-- The result codes of R161, by name; `ResultCode.code` gives their numbers. -/
inductive ResultCode where
  | ok
  | empty
  | blocked
  | framingError
  | checksumError
  | deviceRejected
  | unexpectedReplyLength
  | invalidArgument
  | queueFull
  | rxFull
  | badOperation
  deriving DecidableEq, Repr

/-- The operand an `InvalidArgument` carries (R97, R121, R161): the field it stands in and its value. -/
inductive Operand where
  | cmd (v : BitVec 4)
  | alen (v : BitVec 3)
  | value (v : Word)
  deriving DecidableEq, Repr

/-- The data of a result, "a structure named per operation" (R81, D25). -/
inductive ResultData where
  /-- No data. -/
  | nothing
  /-- CHECKSUM: the checksum byte (R91). -/
  | byte (b : Byte)
  /-- VALIDATE and ISIDLE: one bit (R93, R126). -/
  | bit (b : BitVec 1)
  /-- ENCODE: the frame (R97); `ChecksumError`: the rejected frame (R146). -/
  | frame (f : List Byte)
  /-- POPNEXT: the released command and its frame (R123). -/
  | released (c : TxCommand) (f : List Byte)
  /-- EXTRACT: the outcome (R106). -/
  | extracted (o : Extraction)
  /-- RXSTEP: the event (R149). -/
  | event (e : Event)
  /-- `FramingError`: the offending length (R161). -/
  | length (n : Nat)
  /-- `Blocked` and `DeviceRejected`: the outstanding command (R123, R144). -/
  | command (c : Command)
  /-- `InvalidArgument`: the offending operand (R161). -/
  | operand (o : Operand)
  /-- `UnexpectedReplyLength`: declared length, outstanding command, frame (R147). -/
  | reply (len : Nat) (c : Command) (f : List Byte)
  deriving DecidableEq, Repr

/-- The result of an operation: the record `(RC, data)` (R81). -/
structure Result where
  rc : ResultCode
  data : ResultData
  deriving DecidableEq, Repr

/-- An entry of the queue: the pair `(cmd, bytes)` (R24). -/
structure Entry where
  cmd : TxCommand
  bytes : List Byte
  deriving DecidableEq, Repr

/-- The reasons the machine stops with a fault: none. "The SFC has no traps" (60_exceptions.md): an error is the result of the
operation that met it, and the next operation runs normally (R166, R173, R174). -/
inductive Fault where
  deriving DecidableEq, Repr

/-- The reasons a step has no meaning. -/
inductive Refusal where
  /-- Raised by the arm of an instruction that has no meaning yet. Safe. No arm raises it: every row has its meaning. -/
  | notModelled (mnemonic : String)
  deriving DecidableEq, Repr

/-- The state. `q`, `outstanding` and `rxbuf` are the SFC's, and all of it (R20). `cfg` holds the parameters, which no step changes
(R33). `result` and `ops` are the model's own: the two sides of the host interface. -/
structure State where
  /-- The parameters of R8, meeting R9: not SFC state (R33), carried beside it (notes/assumptions/1.md). -/
  cfg : Config
  /-- `Q`, the queue; its first element is the head `Q[0]` (R23). -/
  q : List Entry
  /-- `OUTSTANDING` (R25). -/
  outstanding : Command
  /-- `RXBUF`, the receive buffer; its first element is the oldest byte `RXBUF[0]` (R26). -/
  rxbuf : List Byte
  /-- The result the last operation returned to the host, `none` before the first (notes/assumptions/3.md). No operation reads it. -/
  result : Option Result
  /-- The operation words the host has yet to issue, the next one first (notes/assumptions/4.md). No operation reads or writes it;
  `step` takes its first word. -/
  ops : List OpWord
  deriving DecidableEq, Repr

/-- The state at power-on, which is the state after RESET: `Q = []`, `OUTSTANDING = none`, `RXBUF = []` (R31, R186). The host has
issued nothing yet. The configuration is the free one. -/
def State.reset : State where
  cfg := Config.device
  q := []
  outstanding := none
  rxbuf := []
  result := none
  ops := []

end Sys2Proof.Machine
end

