-- ==== Sys2Proof/Machine/Operands.lean ====
section
/-! DEFINITION. The operand forms: bytes of a word and back (R13), the byte sum (R13), the command index (R77), the fit predicate
(R98), the reply table (R7, R149), the byte classes of the extractor (R10), and the read primitive of the receive buffer (R42). -/

namespace Sys2Proof.Machine

/-- `be(v, n)`: the big-endian `n`-byte sequence of the low `8n` bits of `v` (R13, R63). -/
def be (v : Word) : Nat → List Byte
  | 0 => []
  | n + 1 => (v >>> (8 * n)).setWidth 8 :: be v n

/-- `ube(s)`: the unsigned integer whose big-endian bytes are `s` (R13). -/
def ube (s : List Byte) : Nat := s.foldl (fun acc b => 256 * acc + b.toNat) 0

/-- `sbe(s)`: the two's-complement signed integer of the bytes of `s` (R13). -/
def sbe (s : List Byte) : Int :=
  if 2 * ube s < 2 ^ (8 * s.length) then ube s else (ube s : Int) - (2 ^ (8 * s.length) : Nat)

/-- `sum8(s)`: the sum of the bytes of `s` modulo 256 (R13). -/
def sum8 : List Byte → Byte
  | [] => 0
  | b :: s => b + sum8 s

/-- The command with `CMDIDX = i`, for `i` in 1 to 12; none for 0 and for 13 to 15 (R77). -/
def TxCommand.ofIdx (i : BitVec 4) : Option TxCommand :=
  match i.toNat with
  | 1 => some .clearError
  | 2 => some .setControlMode
  | 3 => some .getActuatorInfo
  | 4 => some .clearShaftPosition
  | 5 => some .setWatchdog
  | 6 => some .setTrapezoidalVelocity
  | 7 => some .setTrapezoidalPosition
  | 8 => some .getPosition
  | 9 => some .getStatus
  | 10 => some .getDriveStatus
  | 11 => some .setVelocity
  | 12 => some .setShaftPosition
  | _ => none

/-- `CMDIDX(c)` (R77); 0 for `none`. -/
def cmdIdx : Command → BitVec 4
  | none => 0
  | some .clearError => 1
  | some .setControlMode => 2
  | some .getActuatorInfo => 3
  | some .clearShaftPosition => 4
  | some .setWatchdog => 5
  | some .setTrapezoidalVelocity => 6
  | some .setTrapezoidalPosition => 7
  | some .getPosition => 8
  | some .getStatus => 9
  | some .getDriveStatus => 10
  | some .setVelocity => 11
  | some .setShaftPosition => 12

/-- `fits(W, n)`: for `n = 0`, `W = 0`; for `n = 1` to 3, `W` is representable in `n` bytes unsigned or as a negative
two's-complement number; for `n = 4`, always (R98). The rule ends at 4, and so do its callers (R121). -/
def fits (W : Word) : Nat → Bool
  | 0 => W == 0
  | n + 1 =>
    decide (4 ≤ n + 1)
      || decide (W.toNat < 2 ^ (8 * (n + 1)))
      || decide (-(2 ^ (8 * (n + 1) - 1) : Int) ≤ W.toInt ∧ W.toInt < 0)

/-- `KIND` of the outstanding command; none for the eight commands without a dispatch row and for `none` (R149). -/
def kindOf : Command → Option Kind
  | some .getStatus => some .status
  | some .getPosition => some .position
  | some .getDriveStatus => some .drive
  | some .getActuatorInfo => some .info
  | some .clearError => none
  | some .setControlMode => none
  | some .clearShaftPosition => none
  | some .setWatchdog => none
  | some .setTrapezoidalVelocity => none
  | some .setTrapezoidalPosition => none
  | some .setVelocity => none
  | some .setShaftPosition => none
  | none => none

/-- The number of a kind (R149). -/
def Kind.number : Kind → Nat
  | .status => 1
  | .position => 2
  | .drive => 3
  | .info => 4

/-- The length of the reply of a kind (R7, R149). -/
def Kind.replyLength : Kind → Nat
  | .status => 12
  | .position => 13
  | .drive => 12
  | .info => 12

/-- `EXPLEN(c)`: the expected reply length, absent for every command without a dispatch row and for `none` (R7). -/
def expLen (c : Command) : Option Nat := (kindOf c).map Kind.replyLength

/-- A member of `BARE = {ACK, NAK}` (R10). -/
def isBare (b : Byte) : Bool := b == ackByte || b == nakByte

/-- A member of `RMARK` (R10). -/
def isReplyMarker (p : Params) (b : Byte) : Bool := b == p.markReplyUnchanged || b == p.markReplyChanged

/-- A recognised byte: a member of `REC` (R10, 90_conflicts.md C1). -/
def isRecognised (p : Params) (b : Byte) : Bool := isBare b || isReplyMarker p b

/-- `MemRead(a, n) = RXBUF[a : a+n]` on a byte sequence (R14, R42). -/
def memRead (s : List Byte) (a n : Nat) : List Byte := (s.drop a).take n

end Sys2Proof.Machine
end

