-- ==== Sys2Proof/Machine/Frame.lean ====
section
/-! DEFINITION. The pure functions of the frame codec: checksum, validation, encoding, splitting (R90 to R100), and of the packet
extractor (R105). -/

namespace Sys2Proof.Machine

/-- `cksum(s)`: the 8-bit two's-complement negation of the sum of all bytes but the last (R90). -/
def cksum (s : List Byte) : Byte := -(sum8 s.dropLast)

/-- `valid(s)`: the checksum, computed again, is the last byte (R92). The rule defines it for two bytes and more, and no operation
calls it on fewer (R94). -/
def valid (s : List Byte) : Bool := s.getLast? == some (cksum s)

/-- A body with the byte that makes the whole sum to 0 modulo 256 (R64, R96). -/
def withChecksum (body : List Byte) : List Byte := body ++ [-(sum8 body)]

/-- The command frame of `c` with the argument bytes `arg`: marker, length, opcode, argument, checksum (R43, R61). -/
def commandFrame (p : Params) (c : TxCommand) (arg : List Byte) : List Byte :=
  withChecksum ([p.markCmd, BitVec.ofNat 8 (4 + arg.length), p.opc c] ++ arg)

/-- `encode(c, W, n)` (R96). -/
def encodeFrame (p : Params) (c : TxCommand) (W : Word) (n : Nat) : List Byte := commandFrame p c (be W n)

/-- The bit string of the frame `encode(c, W, n)`, most significant first: bits `[8n+31 : 8n+24]` marker, `[8n+23 : 8n+16]` length,
`[8n+15 : 8n+8]` command, `[8n+7 : 8]` argument, `[7:0]` checksum (R61). -/
def frameBits (p : Params) (c : TxCommand) (W : Word) (n : Nat) : BitVec (8 + 8 + 8 + 8 * n + 8) :=
  p.markCmd ++ BitVec.ofNat 8 (4 + n) ++ p.opc c ++ W.setWidth (8 * n) ++ cksum (encodeFrame p c W n)

/-- The reply frame with marker `m` whose bytes from offset 2 on are `rest`: marker, declared length, payload and checksum (R44,
R65). -/
def replyFrame (m : Byte) (rest : List Byte) : List Byte := m :: BitVec.ofNat 8 (rest.length + 2) :: rest

/-- The fields of a command frame, the document's Frame record without its `command` decoded (R24, R100). -/
structure CommandFields where
  marker : Byte
  length : Byte
  command : Byte
  payload : List Byte
  checksum : Byte
  deriving DecidableEq, Repr

/-- The fields of a reply frame; no command byte (R44, R100). -/
structure ReplyFields where
  marker : Byte
  length : Byte
  payload : List Byte
  checksum : Byte
  deriving DecidableEq, Repr

/-- `split` of a command frame, defined for four bytes and more (R100). -/
def splitCommand : List Byte → Option CommandFields
  | m :: l :: c :: k :: tl =>
    some { marker := m, length := l, command := c, payload := (k :: tl).dropLast, checksum := (k :: tl).getLastD k }
  | _ => none

/-- `split` of a reply frame, defined for two bytes and more; for two, the length byte and the checksum byte are the same byte and
the payload is empty (R100). -/
def splitReply : List Byte → Option ReplyFields
  | m :: l :: tl => some { marker := m, length := l, payload := tl.dropLast, checksum := tl.getLastD l }
  | _ => none

/-- `extract(B)` (R105). -/
def extract (p : Params) (B : List Byte) : Extraction :=
  match B with
  | [] => .incomplete
  | b0 :: tl =>
    match (b0 :: tl).findIdx? (isRecognised p) with
    | none => .discard (b0 :: tl).length
    | some (i + 1) => .discard (i + 1)
    | some 0 =>
      if isBare b0 then .complete 1
      else
        match tl with
        | [] => .incomplete
        | len :: _ => if len.toNat ≤ (b0 :: tl).length then .complete len.toNat else .incomplete

end Sys2Proof.Machine
end

