-- ==== Sys2Proof/WellFormed.lean ====
section
/-! DEFINITION. Which instructions have an encoding. -/

namespace Sys2Proof

/-- An argument of a command frame has 0 to 4 bytes (R6 `MAX_ARG`, R61). -/
def argWf (arg : List Byte) : Bool := decide (arg.length ≤ 4)

/-- A reply frame has 2 to 255 bytes, marker and length included (R60, R65). -/
def replyWf (rest : List Byte) : Bool := decide (rest.length ≤ 253)

/-- The instruction can be encoded: its operands fit the fields of its format. Every value of a bit field of `HOSTOP` is
encodable, the illegal ones too (R76). -/
def Instr.wf : Instr → Bool
  | .nop => true
  | .reset => true
  | .encode _ _ _ => true
  | .enqueue _ _ _ => true
  | .popnext => true
  | .replydone => true
  | .isidle => true
  | .clearq => true
  | .rxpush _ => true
  | .extract => true
  | .rxdrop _ => true
  | .checksum _ => true
  | .validate _ => true
  | .rxstep => true
  | .rxflush => true
  | .reservedOp15 _ => true
  | .clearError arg => argWf arg
  | .setControlMode arg => argWf arg
  | .getActuatorInfo arg => argWf arg
  | .clearShaftPosition arg => argWf arg
  | .setWatchdog arg => argWf arg
  | .setTrapezoidalVelocity arg => argWf arg
  | .setTrapezoidalPosition arg => argWf arg
  | .getPosition arg => argWf arg
  | .getStatus arg => argWf arg
  | .getDriveStatus arg => argWf arg
  | .setVelocity arg => argWf arg
  | .setShaftPosition arg => argWf arg
  | .ack => true
  | .nak => true
  | .replyUnchanged rest => replyWf rest
  | .replyChanged rest => replyWf rest

end Sys2Proof
end

