-- ==== Sys2Proof/Decode.lean ====
section
/-! DEFINITION. The decoder, total on the words and bytes of all three formats and rejecting by name, and the encoder. -/

namespace Sys2Proof

/-- Why a word or a byte sequence is no instruction. -/
inductive Reject where
  /-- An operation word with a bit of `RSV` set and a select code of 0 to 14: the step answers `BadOperation` (R78). -/
  | reservedBits
  /-- No bytes. -/
  | empty
  /-- A first byte outside `REC`: noise (R67, R70(a), R70(e)). -/
  | noise
  /-- A reply marker whose declared bytes are not all there: `Incomplete` (R70(d), R72). -/
  | truncated
  /-- A reply marker with declared length 0 or 1 (R70(b)). -/
  | shortLength
  /-- No command frame: another marker than `MARK_CMD` (R61). -/
  | notCommandMarker
  /-- No command frame: its length byte is not its length, or the length is not 4 to 8 (R62). -/
  | badLength
  /-- No command frame: its command byte is `OPC(c)` for no `c` (R71). -/
  | unknownOpcode
  /-- No command frame: its bytes do not sum to 0 modulo 256 (R64, R71). -/
  | badChecksum
  deriving DecidableEq, Repr

/-- An encoded instruction, at the place of the machine that takes it: an operation word at the host interface (R74), bytes at offset
0 of the receive buffer (R67), or the bytes of an entry at the head of the queue (R24). -/
inductive Packet where
  | op (w : OpWord)
  | line (bytes : List Byte)
  | queue (bytes : List Byte)
  deriving DecidableEq, Repr

/-! ## The operation word (R74, R75) -/

/-- `OP`, bits 47:44. -/
def opField (w : OpWord) : BitVec 4 := w.extractLsb' 44 4

/-- `CMD`, bits 43:40. -/
def cmdField (w : OpWord) : BitVec 4 := w.extractLsb' 40 4

/-- `RSV`, bits 39:35. -/
def rsvField (w : OpWord) : BitVec 5 := w.extractLsb' 35 5

/-- `ALEN`, bits 34:32. -/
def alenField (w : OpWord) : BitVec 3 := w.extractLsb' 32 3

/-- `VALUE`, bits 31:0. -/
def valueField (w : OpWord) : Word := w.extractLsb' 0 32

/-- The host operation of an operation word. A select code of 15 is reserved whatever the rest (R78); with any other, a set bit of
`RSV` is rejected; the fields that R75 does not list for the operation are not looked at. -/
def decodeOp (w : OpWord) : Except Reject Instr :=
  if opField w = 15 then .ok (.reservedOp15 (w.extractLsb' 0 44))
  else if rsvField w ≠ 0 then .error .reservedBits
  else
    match (opField w).toNat with
    | 0 => .ok .nop
    | 1 => .ok .reset
    | 2 => .ok (.encode (cmdField w) (alenField w) (valueField w))
    | 3 => .ok (.enqueue (cmdField w) (alenField w) (valueField w))
    | 4 => .ok .popnext
    | 5 => .ok .replydone
    | 6 => .ok .isidle
    | 7 => .ok .clearq
    | 8 => .ok (.rxpush ((valueField w).setWidth 8))
    | 9 => .ok .extract
    | 10 => .ok (.rxdrop (valueField w))
    | 11 => .ok (.checksum (valueField w))
    | 12 => .ok (.validate (valueField w))
    | 13 => .ok .rxstep
    | 14 => .ok .rxflush
    | _ => .ok (.reservedOp15 (w.extractLsb' 0 44))

/-! ## The wire formats (R61, R65, R66, R67) -/

/-- A reply frame after its marker: the length byte and the bytes it declares (R65, R70, R72). -/
def decodeReply (mk : List Byte → Instr) : List Byte → Except Reject (Instr × List Byte)
  | [] => .error .truncated
  | len :: body =>
    if len.toNat < 2 then .error .shortLength
    else if body.length < len.toNat - 2 then .error .truncated
    else .ok (mk (body.take (len.toNat - 2)), body.drop (len.toNat - 2))

/-- The inbound item that stands at offset 0 of the bytes, and the bytes after it (R67). -/
def decodeLine (p : Params) : List Byte → Except Reject (Instr × List Byte)
  | [] => .error .empty
  | b0 :: tl =>
    if b0 = ackByte then .ok (.ack, tl)
    else if b0 = nakByte then .ok (.nak, tl)
    else if b0 = p.markReplyUnchanged then decodeReply .replyUnchanged tl
    else if b0 = p.markReplyChanged then decodeReply .replyChanged tl
    else .error .noise

/-- The command frame of a command. -/
def Instr.ofCommand (arg : List Byte) : TxCommand → Instr
  | .clearError => .clearError arg
  | .setControlMode => .setControlMode arg
  | .getActuatorInfo => .getActuatorInfo arg
  | .clearShaftPosition => .clearShaftPosition arg
  | .setWatchdog => .setWatchdog arg
  | .setTrapezoidalVelocity => .setTrapezoidalVelocity arg
  | .setTrapezoidalPosition => .setTrapezoidalPosition arg
  | .getPosition => .getPosition arg
  | .getStatus => .getStatus arg
  | .getDriveStatus => .getDriveStatus arg
  | .setVelocity => .setVelocity arg
  | .setShaftPosition => .setShaftPosition arg

/-- The command whose wire opcode a byte is, under `OPC` (R8, R9(c)). -/
def commandOfOpcode (p : Params) (b : Byte) : Option TxCommand := TxCommand.all.find? (fun c => p.opc c == b)

/-- The command frame that the bytes are, all of them (R61, R62, R64). -/
def decodeFrame (p : Params) (bytes : List Byte) : Except Reject Instr :=
  match bytes with
  | m :: len :: op :: body =>
    if m ≠ p.markCmd then .error .notCommandMarker
    else if len.toNat ≠ bytes.length ∨ body.length = 0 ∨ 5 < body.length then .error .badLength
    else if Machine.valid bytes = false then .error .badChecksum
    else
      match commandOfOpcode p op with
      | none => .error .unknownOpcode
      | some c => .ok (Instr.ofCommand body.dropLast c)
  | _ => .error .badLength

/-- The instruction of a packet. -/
def decode (p : Params) : Packet → Except Reject Instr
  | .op w => decodeOp w
  | .line bytes => (decodeLine p bytes).map Prod.fst
  | .queue bytes => decodeFrame p bytes

/-! ## The encoder -/

/-- An operation word with its fields, `RSV` zero (R74). -/
def opWord (op cmd : BitVec 4) (alen : BitVec 3) (value : Word) : OpWord := op ++ cmd ++ (0 : BitVec 5) ++ alen ++ value

/-- The packet of an instruction. A field of the operation word that the operation does not use is written as zero
(notes/assumptions/7.md). -/
def encode (p : Params) : Instr → Packet
  | .nop => .op (opWord 0 0 0 0)
  | .reset => .op (opWord 1 0 0 0)
  | .encode cmd alen value => .op (opWord 2 cmd alen value)
  | .enqueue cmd alen value => .op (opWord 3 cmd alen value)
  | .popnext => .op (opWord 4 0 0 0)
  | .replydone => .op (opWord 5 0 0 0)
  | .isidle => .op (opWord 6 0 0 0)
  | .clearq => .op (opWord 7 0 0 0)
  | .rxpush b => .op (opWord 8 0 0 (b.setWidth 32))
  | .extract => .op (opWord 9 0 0 0)
  | .rxdrop n => .op (opWord 10 0 0 n)
  | .checksum n => .op (opWord 11 0 0 n)
  | .validate n => .op (opWord 12 0 0 n)
  | .rxstep => .op (opWord 13 0 0 0)
  | .rxflush => .op (opWord 14 0 0 0)
  | .reservedOp15 rest => .op ((15 : BitVec 4) ++ rest)
  | .clearError arg => .queue (Machine.commandFrame p .clearError arg)
  | .setControlMode arg => .queue (Machine.commandFrame p .setControlMode arg)
  | .getActuatorInfo arg => .queue (Machine.commandFrame p .getActuatorInfo arg)
  | .clearShaftPosition arg => .queue (Machine.commandFrame p .clearShaftPosition arg)
  | .setWatchdog arg => .queue (Machine.commandFrame p .setWatchdog arg)
  | .setTrapezoidalVelocity arg => .queue (Machine.commandFrame p .setTrapezoidalVelocity arg)
  | .setTrapezoidalPosition arg => .queue (Machine.commandFrame p .setTrapezoidalPosition arg)
  | .getPosition arg => .queue (Machine.commandFrame p .getPosition arg)
  | .getStatus arg => .queue (Machine.commandFrame p .getStatus arg)
  | .getDriveStatus arg => .queue (Machine.commandFrame p .getDriveStatus arg)
  | .setVelocity arg => .queue (Machine.commandFrame p .setVelocity arg)
  | .setShaftPosition arg => .queue (Machine.commandFrame p .setShaftPosition arg)
  | .ack => .line [ackByte]
  | .nak => .line [nakByte]
  | .replyUnchanged rest => .line (Machine.replyFrame p.markReplyUnchanged rest)
  | .replyChanged rest => .line (Machine.replyFrame p.markReplyChanged rest)

/-! ## Instructions as the opcode table numbers their bits -/

/-- The bytes of a bit string of `n` bytes in transmission order: the string is written most significant first, so the first byte is
the top one and the last is bits 7:0 (R61). -/
def bitStringBytes (w : Nat) : Nat → List Byte
  | 0 => []
  | n + 1 => BitVec.ofNat 8 (w / 256 ^ n) :: bitStringBytes w n

/-- The bytes of an item of the wire whose bit string is `w`, the table giving `nbits` of it, marker on top (R61); where the length byte
declares more, the bytes that follow are zero. -/
def tableItem (nbits w : Nat) : List Byte :=
  match bitStringBytes w (nbits / 8) with
  | m :: len :: body => m :: len :: (body ++ List.replicate (len.toNat - (body.length + 2)) 0)
  | short => short

/-- The instruction the decoder reads from the bits `w` of a row of the opcode table: the 48-bit rows are operation words, the others
bytes of the wire, inbound or outbound. The wire bytes are read under the free configuration. -/
def decodeTableWord (nbits w : Nat) : Option Instr :=
  if nbits = 48 then (decodeOp (BitVec.ofNat 48 w)).toOption
  else
    match decodeLine Config.device.toParams (tableItem nbits w) with
    | .ok (i, _) => some i
    | .error _ => (decodeFrame Config.device.toParams (tableItem nbits w)).toOption

end Sys2Proof
end

