-- ==== Sys2Proof/Machine/Flags.lean ====
section
/-! DEFINITION. The conditions an operation tests (R28), the five read-only status outputs (R27), and the numbers of the result codes
(R161). The SFC has no condition-code register: every one of these is a pure function of the state. -/

namespace Sys2Proof.Machine

/-- `|S| = CAP`, never so when the capacity is unbounded (R122(e), R168, R169). -/
def atCapacity (cap : Option Nat) (n : Nat) : Bool := cap == some n

/-- `|Q| = QDEPTH` (R28, R168). -/
def State.queueFull (s : State) : Bool := atCapacity s.cfg.qdepth s.q.length

/-- `|RXBUF| = RXBUF_CAP` (R28, R169). -/
def State.rxFull (s : State) : Bool := atCapacity s.cfg.rxbufCap s.rxbuf.length

/-- `|Q| = 0` and `OUTSTANDING = none` (R126). -/
def State.idle (s : State) : Bool := s.q.isEmpty && s.outstanding.isNone

/-- `ST_OUTSTANDING`, 4 bits (R27). -/
def State.stOutstanding (s : State) : BitVec 4 := cmdIdx s.outstanding

/-- `ST_QCOUNT`, an unsigned integer (R27). -/
def State.stQcount (s : State) : Nat := s.q.length

/-- `ST_RXCOUNT`, an unsigned integer (R27). -/
def State.stRxcount (s : State) : Nat := s.rxbuf.length

/-- `ST_IDLE`, 1 bit (R27). -/
def State.stIdle (s : State) : BitVec 1 := BitVec.ofBool s.idle

/-- `ST_PENDING`, 1 bit (R27). -/
def State.stPending (s : State) : BitVec 1 := BitVec.ofBool s.outstanding.isSome

/-- The 8-bit number of a result code (R161). -/
def ResultCode.code : ResultCode → BitVec 8
  | .ok => 0x00
  | .empty => 0x01
  | .blocked => 0x02
  | .framingError => 0x10
  | .checksumError => 0x11
  | .deviceRejected => 0x12
  | .unexpectedReplyLength => 0x13
  | .invalidArgument => 0x14
  | .queueFull => 0x20
  | .rxFull => 0x21
  | .badOperation => 0x22

end Sys2Proof.Machine
end

