-- ==== Sys2Proof/Machine/Ops.lean ====
section
/-! DEFINITION. The named operations over the state that the meanings share: answering with a result, raising an error (the SFC's
whole counterpart of taking an exception), the primitives of the two stores, the release of a frame, and the branches of the receive
pipeline. -/

namespace Sys2Proof.Machine

/-- `return OK(data)`: the operation ends with success (R15). -/
def State.ret (s : State) (d : ResultData) : State := { s with result := some ⟨.ok, d⟩ }

/-- `raise kind(info)`: the operation ends with that error or status as its result. This is all there is of an exception: "an error
saves no state, changes no mode, masks nothing and transfers control nowhere" (R15, R166, R173), and there is no return from it
(R174). -/
def State.raise (s : State) (rc : ResultCode) (info : ResultData) : State := { s with result := some ⟨rc, info⟩ }

/-- An illegal operation word: `BadOperation`, no state change (R78, R170). -/
def State.badOperation (s : State) : State := s.raise .badOperation .nothing

/-- `append(b)` on the receive buffer (R42). -/
def State.rxAppend (s : State) (b : Byte) : State := { s with rxbuf := s.rxbuf ++ [b] }

/-- `drop(n)` on the receive buffer (R42). -/
def State.rxRemove (s : State) (n : Nat) : State := { s with rxbuf := s.rxbuf.drop n }

/-- `OUTSTANDING <- none` (R25). -/
def State.clearOutstanding (s : State) : State := { s with outstanding := none }

/-- `Q <- Q ++ [e]`: an entry enters at the tail (R23). -/
def State.enqueueEntry (s : State) (e : Entry) : State := { s with q := s.q ++ [e] }

/-- The head of the queue leaves as the frame `e`, whose command becomes the outstanding one (R123). -/
def State.release (s : State) (e : Entry) : State :=
  ({ s with q := s.q.tail, outstanding := some e.cmd } : State).ret (.released e.cmd e.bytes)

/-- The arbiter for the transmission of the frame `e` from the head of the queue: `Blocked` while a command is outstanding, `Empty`
when there is no head, else the release (R123, R124). -/
def State.transmit (s : State) (e : Entry) : State :=
  match s.outstanding with
  | some c => s.raise .blocked (.command (some c))
  | none =>
    match s.q with
    | [] => s.raise .empty .nothing
    | _ :: _ => s.release e

/-- The operand checks ENCODE and ENQUEUE share, in their order: the command, then the length (R97, R121, R172). -/
def State.withCommand (s : State) (cmd : BitVec 4) (alen : BitVec 3) (k : TxCommand → State) : State :=
  match TxCommand.ofIdx cmd with
  | none => s.raise .invalidArgument (.operand (.cmd cmd))
  | some c => if 4 < alen.toNat then s.raise .invalidArgument (.operand (.alen alen)) else k c

/-- The range checks CHECKSUM and VALIDATE share, in their order: more bytes than are held, then fewer than two (R91, R93, R172);
then the answer computed from `RXBUF[0:n]`. -/
def State.withPrefix (s : State) (n : Word) (k : List Byte → ResultData) : State :=
  if s.rxbuf.length < n.toNat then s.raise .invalidArgument (.operand (.value n))
  else if n.toNat < 2 then s.raise .framingError (.length n.toNat)
  else s.ret (k (memRead s.rxbuf 0 n.toNat))

/-- Branch `ACKED` of the receive pipeline (R143). -/
def State.acceptAck (s : State) : State := ((s.rxRemove 1).clearOutstanding).ret (.event .acked)

/-- Branch `DeviceRejected` of the receive pipeline; the error carries the command that was outstanding (R144). -/
def State.acceptNak (s : State) : State :=
  ((s.rxRemove 1).clearOutstanding).raise .deviceRejected (.command s.outstanding)

/-- The branches for a reply frame `f` of two bytes or more at the head of the buffer: it is removed whole, then `ChecksumError`,
`UnexpectedReplyLength` or `DECODED` (R146, R147, R148). -/
def State.acceptReply (s : State) (f : List Byte) : State :=
  let s' := s.rxRemove f.length
  if valid f then
    match kindOf s.outstanding with
    | none => s'.raise .unexpectedReplyLength (.reply f.length s.outstanding f)
    | some k =>
      if k.replyLength = f.length then s'.clearOutstanding.ret (.event (.decoded k f))
      else s'.raise .unexpectedReplyLength (.reply f.length s.outstanding f)
  else s'.raise .checksumError (.frame f)

/-- Branch `FramingError` of the receive pipeline: a reply marker with declared length 0 or 1; one byte is removed (R145). -/
def State.rejectShort (s : State) (len : Nat) : State := (s.rxRemove 1).raise .framingError (.length len)

/-- One turn of the receive pipeline (R140). -/
def State.receive (s : State) : State :=
  match extract s.cfg.toParams s.rxbuf with
  | .incomplete => s.ret (.event .wait)
  | .discard n => (s.rxRemove n).ret (.event (.discarded n))
  | .complete len =>
    if s.rxbuf.head? = some ackByte then s.acceptAck
    else if s.rxbuf.head? = some nakByte then s.acceptNak
    else if len < 2 then s.rejectShort len
    else s.acceptReply (memRead s.rxbuf 0 len)

end Sys2Proof.Machine
end

