-- ==== Sys2Proof/Machine/Codec.lean ====
section
/-! DEFINITION. The meanings of ENCODE, CHECKSUM and VALIDATE (40_codec.md). None of them changes the SFC's state. -/

namespace Sys2Proof.Machine

/-- ENCODE `cmd, value, alen` (R97): the frame is returned, not queued; a value that does not fit is truncated. -/
def execEncode (cmd : BitVec 4) (alen : BitVec 3) (value : Word) (s : State) : Host.Outcome State Fault Refusal :=
  .next (s.withCommand cmd alen fun c => s.ret (.frame (encodeFrame s.cfg.toParams c value alen.toNat)))

/-- CHECKSUM `n` (R91). -/
def execChecksum (n : Word) (s : State) : Host.Outcome State Fault Refusal :=
  .next (s.withPrefix n fun f => .byte (cksum f))

/-- VALIDATE `n` (R93): an invalid checksum is no error, the data is 0. -/
def execValidate (n : Word) (s : State) : Host.Outcome State Fault Refusal :=
  .next (s.withPrefix n fun f => .bit (BitVec.ofBool (valid f)))

end Sys2Proof.Machine
end

