-- ==== Sys2Proof/Machine/Control.lean ====
section
/-! DEFINITION. The meanings of NOP, RESET and the reserved select code. -/

namespace Sys2Proof.Machine

/-- NOP: `return OK` (R128). -/
def execNop (s : State) : Host.Outcome State Fault Refusal := .next (s.ret .nothing)

/-- RESET: `Q`, `OUTSTANDING` and `RXBUF` are emptied; the parameters are not state and are not reset (R185). -/
def execReset (s : State) : Host.Outcome State Fault Refusal :=
  .next (({ s with q := [], outstanding := none, rxbuf := [] } : State).ret .nothing)

/-- An operation word with select code 15: `BadOperation`, whatever the other bits hold (R78, R170). -/
def execReservedOp15 (_rest : BitVec 44) (s : State) : Host.Outcome State Fault Refusal := .next s.badOperation

end Sys2Proof.Machine
end

