-- ==== Sys2Proof/Machine/Extractor.lean ====
section
/-! DEFINITION. The meanings of RXPUSH, EXTRACT, RXDROP and RXFLUSH (41_extractor.md). -/

namespace Sys2Proof.Machine

/-- RXPUSH `b` (R109): at capacity the byte is not stored. -/
def execRxpush (b : Byte) (s : State) : Host.Outcome State Fault Refusal :=
  .next (if s.rxFull then s.raise .rxFull .nothing else (s.rxAppend b).ret .nothing)

/-- EXTRACT (R106): a look; nothing is removed. -/
def execExtract (s : State) : Host.Outcome State Fault Refusal :=
  .next (s.ret (.extracted (extract s.cfg.toParams s.rxbuf)))

/-- RXDROP `n` (R111): more bytes than are held are not dropped. -/
def execRxdrop (n : Word) (s : State) : Host.Outcome State Fault Refusal :=
  .next (if s.rxbuf.length < n.toNat then s.raise .invalidArgument (.operand (.value n))
    else (s.rxRemove n.toNat).ret .nothing)

/-- RXFLUSH (R113). -/
def execRxflush (s : State) : Host.Outcome State Fault Refusal := .next (({ s with rxbuf := [] } : State).ret .nothing)

end Sys2Proof.Machine
end

