-- ==== Sys2Proof/Machine/Queue.lean ====
section
/-! DEFINITION. The meanings of ENQUEUE, POPNEXT, REPLYDONE, ISIDLE and CLEARQ (42_queue.md). -/

namespace Sys2Proof.Machine

/-- ENQUEUE `cmd, value, alen` (R121): the tests in the order written, then the entry, encoded now, at the tail. -/
def execEnqueue (cmd : BitVec 4) (alen : BitVec 3) (value : Word) (s : State) : Host.Outcome State Fault Refusal :=
  .next (s.withCommand cmd alen fun c =>
    if fits value alen.toNat = false then s.raise .invalidArgument (.operand (.value value))
    else if s.queueFull then s.raise .queueFull .nothing
    else (s.enqueueEntry ⟨c, encodeFrame s.cfg.toParams c value alen.toNat⟩).ret .nothing)

/-- POPNEXT (R123): `Blocked` while a command is outstanding, `Empty` when nothing is queued, else the head is released as it stands
in the queue (R56). -/
def execPopnext (s : State) : Host.Outcome State Fault Refusal :=
  .next (match s.outstanding, s.q with
    | some c, _ => s.raise .blocked (.command (some c))
    | none, [] => s.raise .empty .nothing
    | none, e :: _ => s.release e)

/-- REPLYDONE (R125): unconditional. -/
def execReplydone (s : State) : Host.Outcome State Fault Refusal := .next (s.clearOutstanding.ret .nothing)

/-- ISIDLE (R126): the conjunction, whatever the receive buffer holds. -/
def execIsidle (s : State) : Host.Outcome State Fault Refusal := .next (s.ret (.bit (BitVec.ofBool s.idle)))

/-- CLEARQ (R127): the queue and the outstanding command; the receive buffer is not touched. -/
def execClearq (s : State) : Host.Outcome State Fault Refusal :=
  .next (({ s with q := [], outstanding := none } : State).ret .nothing)

end Sys2Proof.Machine
end

