-- ==== Sys2Proof/Machine/Receive.lean ====
section
/-! DEFINITION. The meaning of RXSTEP (43_receive.md), and the meanings of the four inbound rows of the opcode table: what the
receive pipeline does with such an item when it stands at offset 0 of the receive buffer (notes/assumptions/5.md). -/

namespace Sys2Proof.Machine

/-- RXSTEP (R140). -/
def execRxstep (s : State) : Host.Outcome State Fault Refusal := .next s.receive

/-- The bare byte ACK at offset 0 (R143). -/
def execAck (s : State) : Host.Outcome State Fault Refusal := .next s.acceptAck

/-- The bare byte NAK at offset 0 (R144). -/
def execNak (s : State) : Host.Outcome State Fault Refusal := .next s.acceptNak

/-- A reply frame "status unchanged" at offset 0 (R146, R147, R148). -/
def execReplyUnchanged (rest : List Byte) (s : State) : Host.Outcome State Fault Refusal :=
  .next (s.acceptReply (replyFrame s.cfg.markReplyUnchanged rest))

/-- A reply frame "status changed" at offset 0; "both decoded identically" (R146, R147, R148). -/
def execReplyChanged (rest : List Byte) (s : State) : Host.Outcome State Fault Refusal :=
  .next (s.acceptReply (replyFrame s.cfg.markReplyChanged rest))

end Sys2Proof.Machine
end

