-- ==== Sys2Proof/Machine/Wire.lean ====
section
/-! DEFINITION. The meanings of the twelve command rows of the opcode table: the transmission of such a frame from the head of the
queue, the SFC's one act on a command frame that stands there (R21, R96, R123; notes/assumptions/5.md and 6.md). -/

namespace Sys2Proof.Machine

/-- The command frame of `clear-error`, encoded as R96 says, is released by the arbiter (R68, R96, R123). -/
def execClearError (arg : List Byte) (s : State) : Host.Outcome State Fault Refusal :=
  .next (s.transmit ⟨.clearError, commandFrame s.cfg.toParams .clearError arg⟩)

/-- The command frame of `set-control-mode`, encoded as R96 says, is released by the arbiter (R68, R96, R123). -/
def execSetControlMode (arg : List Byte) (s : State) : Host.Outcome State Fault Refusal :=
  .next (s.transmit ⟨.setControlMode, commandFrame s.cfg.toParams .setControlMode arg⟩)

/-- The command frame of `get-actuator-info`, encoded as R96 says, is released by the arbiter (R68, R96, R123). -/
def execGetActuatorInfo (arg : List Byte) (s : State) : Host.Outcome State Fault Refusal :=
  .next (s.transmit ⟨.getActuatorInfo, commandFrame s.cfg.toParams .getActuatorInfo arg⟩)

/-- The command frame of `clear-shaft-position`, encoded as R96 says, is released by the arbiter (R68, R96, R123). -/
def execClearShaftPosition (arg : List Byte) (s : State) : Host.Outcome State Fault Refusal :=
  .next (s.transmit ⟨.clearShaftPosition, commandFrame s.cfg.toParams .clearShaftPosition arg⟩)

/-- The command frame of `set-watchdog`, encoded as R96 says, is released by the arbiter (R68, R96, R123). -/
def execSetWatchdog (arg : List Byte) (s : State) : Host.Outcome State Fault Refusal :=
  .next (s.transmit ⟨.setWatchdog, commandFrame s.cfg.toParams .setWatchdog arg⟩)

/-- The command frame of `set-trapezoidal-velocity`, encoded as R96 says, is released by the arbiter (R68, R96, R123). -/
def execSetTrapezoidalVelocity (arg : List Byte) (s : State) : Host.Outcome State Fault Refusal :=
  .next (s.transmit ⟨.setTrapezoidalVelocity, commandFrame s.cfg.toParams .setTrapezoidalVelocity arg⟩)

/-- The command frame of `set-trapezoidal-position`, encoded as R96 says, is released by the arbiter (R68, R96, R123). -/
def execSetTrapezoidalPosition (arg : List Byte) (s : State) : Host.Outcome State Fault Refusal :=
  .next (s.transmit ⟨.setTrapezoidalPosition, commandFrame s.cfg.toParams .setTrapezoidalPosition arg⟩)

/-- The command frame of `get-position`, encoded as R96 says, is released by the arbiter (R68, R96, R123). -/
def execGetPosition (arg : List Byte) (s : State) : Host.Outcome State Fault Refusal :=
  .next (s.transmit ⟨.getPosition, commandFrame s.cfg.toParams .getPosition arg⟩)

/-- The command frame of `get-status`, encoded as R96 says, is released by the arbiter (R68, R96, R123). -/
def execGetStatus (arg : List Byte) (s : State) : Host.Outcome State Fault Refusal :=
  .next (s.transmit ⟨.getStatus, commandFrame s.cfg.toParams .getStatus arg⟩)

/-- The command frame of `get-drive-status`, encoded as R96 says, is released by the arbiter (R68, R96, R123). -/
def execGetDriveStatus (arg : List Byte) (s : State) : Host.Outcome State Fault Refusal :=
  .next (s.transmit ⟨.getDriveStatus, commandFrame s.cfg.toParams .getDriveStatus arg⟩)

/-- The command frame of `set-velocity`, encoded as R96 says, is released by the arbiter (R68, R96, R123). -/
def execSetVelocity (arg : List Byte) (s : State) : Host.Outcome State Fault Refusal :=
  .next (s.transmit ⟨.setVelocity, commandFrame s.cfg.toParams .setVelocity arg⟩)

/-- The command frame of `set-shaft-position`, encoded as R96 says, is released by the arbiter (R68, R96, R123). -/
def execSetShaftPosition (arg : List Byte) (s : State) : Host.Outcome State Fault Refusal :=
  .next (s.transmit ⟨.setShaftPosition, commandFrame s.cfg.toParams .setShaftPosition arg⟩)

end Sys2Proof.Machine
end

