-- ==== Sys2Proof/Machine/Dispatch.lean ====
section
/-! DEFINITION. The dispatch: one arm for each instruction. -/

namespace Sys2Proof.Machine

/-- The meaning of an instruction. -/
def exec (i : Instr) (s : State) : Host.Outcome State Fault Refusal :=
  match i with
  | .nop => Sys2Proof.Machine.execNop s
  | .reset => Sys2Proof.Machine.execReset s
  | .encode cmd alen value => Sys2Proof.Machine.execEncode cmd alen value s
  | .enqueue cmd alen value => Sys2Proof.Machine.execEnqueue cmd alen value s
  | .popnext => Sys2Proof.Machine.execPopnext s
  | .replydone => Sys2Proof.Machine.execReplydone s
  | .isidle => Sys2Proof.Machine.execIsidle s
  | .clearq => Sys2Proof.Machine.execClearq s
  | .rxpush b => Sys2Proof.Machine.execRxpush b s
  | .extract => Sys2Proof.Machine.execExtract s
  | .rxdrop n => Sys2Proof.Machine.execRxdrop n s
  | .checksum n => Sys2Proof.Machine.execChecksum n s
  | .validate n => Sys2Proof.Machine.execValidate n s
  | .rxstep => Sys2Proof.Machine.execRxstep s
  | .rxflush => Sys2Proof.Machine.execRxflush s
  | .reservedOp15 rest => Sys2Proof.Machine.execReservedOp15 rest s
  | .clearError arg => Sys2Proof.Machine.execClearError arg s
  | .setControlMode arg => Sys2Proof.Machine.execSetControlMode arg s
  | .getActuatorInfo arg => Sys2Proof.Machine.execGetActuatorInfo arg s
  | .clearShaftPosition arg => Sys2Proof.Machine.execClearShaftPosition arg s
  | .setWatchdog arg => Sys2Proof.Machine.execSetWatchdog arg s
  | .setTrapezoidalVelocity arg => Sys2Proof.Machine.execSetTrapezoidalVelocity arg s
  | .setTrapezoidalPosition arg => Sys2Proof.Machine.execSetTrapezoidalPosition arg s
  | .getPosition arg => Sys2Proof.Machine.execGetPosition arg s
  | .getStatus arg => Sys2Proof.Machine.execGetStatus arg s
  | .getDriveStatus arg => Sys2Proof.Machine.execGetDriveStatus arg s
  | .setVelocity arg => Sys2Proof.Machine.execSetVelocity arg s
  | .setShaftPosition arg => Sys2Proof.Machine.execSetShaftPosition arg s
  | .ack => Sys2Proof.Machine.execAck s
  | .nak => Sys2Proof.Machine.execNak s
  | .replyUnchanged rest => Sys2Proof.Machine.execReplyUnchanged rest s
  | .replyChanged rest => Sys2Proof.Machine.execReplyChanged rest s

end Sys2Proof.Machine
end

