-- ==== Sys2Proof/Machine/Step.lean ====
section
/-! DEFINITION. The step: one host operation (R16). And where the host of this pipeline places an instruction to be fetched. -/

namespace Sys2Proof.Machine

/-- One step: the next operation word of the host is taken and its operation runs to completion (R16). A word the decoder rejects
has a bit of `RSV` set: its result is `BadOperation`, a result and not a trap (R78). Where the host issues nothing, nothing happens
(R171, R180). -/
def step (s : State) : Host.Outcome State Fault Refusal :=
  match s.ops with
  | [] => .next s
  | w :: rest =>
    match decodeOp w with
    | .ok i => exec i { s with ops := rest }
    | .error _ => .next ({ s with ops := rest } : State).badOperation

/-- The operation word of POPNEXT, which fetches the head of the queue (R21, R75). -/
def popnextWord : OpWord := 0x400000000000

/-- The operation word of RXSTEP, which fetches the item at offset 0 of the receive buffer (R21, R75). -/
def rxstepWord : OpWord := 0xD00000000000

/-- `s` with the instruction whose bits are `w` placed where the next step fetches it. An operation word is the next word the host
issues. A command frame becomes the head of the queue with nothing outstanding, and the host's next word is POPNEXT. Any other bytes
stand at offset 0 of the receive buffer, and the host's next word is RXSTEP. -/
def State.withFetchWord (s : State) (nbits w : Nat) : State :=
  if nbits = 48 then { s with ops := BitVec.ofNat 48 w :: s.ops }
  else
    match tableItem nbits w with
    | m :: len :: op :: k :: body =>
      match decodeFrame s.cfg.toParams (m :: len :: op :: k :: body), commandOfOpcode s.cfg.toParams op with
      | .ok _, some c =>
        { s with q := ⟨c, m :: len :: op :: k :: body⟩ :: s.q, outstanding := none, ops := popnextWord :: s.ops }
      | _, _ => { s with rxbuf := (m :: len :: op :: k :: body) ++ s.rxbuf, ops := rxstepWord :: s.ops }
    | short => { s with rxbuf := short ++ s.rxbuf, ops := rxstepWord :: s.ops }

end Sys2Proof.Machine
end

