-- ==== Sys2Proof/Machine/Records.lean ====
section
/-! DEFINITION. The reply payload layouts of 43_receive.md section 3, for the consumer of `DECODED(k, f)`. They are outside the SFC
(R4(3)): no operation calls anything of this file. -/

namespace Sys2Proof.Machine

/-- The fields of a get-status reply (R150). -/
structure StatusReply where
  controlStatus : Byte
  driveStatus : Byte
  controlMode : Byte
  /-- Encoder counts, signed. -/
  shaftPosition : Int
  /-- Raw units, signed. -/
  velocity : Int
  deriving DecidableEq, Repr

/-- The fields of a get-position reply; the document gives no signedness, so they stay bits (R151). -/
structure PositionReply where
  externalEncoderStatus : Byte
  externalAbsPos : BitVec 16
  shaftPosition : BitVec 32
  shaftEncoderStatus : Byte
  shaftAbsPos : BitVec 16
  deriving DecidableEq, Repr

/-- The fields of a get-drive-status reply (R152). -/
structure DriveReply where
  driveStatus : Byte
  protectStatus1 : BitVec 16
  protectStatus2 : BitVec 16
  systemStatus1 : BitVec 16
  systemStatus2 : BitVec 16
  deriving DecidableEq, Repr

/-- What a consumer reads from a decoded reply, by its kind. -/
inductive ReplyRecord where
  | status (r : StatusReply)
  | position (r : PositionReply)
  | drive (r : DriveReply)
  /-- The nine payload bytes as they stand: no offset of a field is given (R153). -/
  | info (payload : List Byte)
  deriving DecidableEq, Repr

/-- The field of `k` bytes at offset `a` of a frame as `8 * k` bits, the first byte the most significant (R45). -/
def fieldBits (f : List Byte) (a k : Nat) : BitVec (8 * k) := BitVec.ofNat (8 * k) (ube (memRead f a k))

/-- The record of a reply frame of a kind, by the offsets of R150, R151 and R152; those the document does not state are the spec's
inference (notes/assumptions/16.md). -/
def readReply (k : Kind) (f : List Byte) : ReplyRecord :=
  match k with
  | .status =>
    .status
      { controlStatus := fieldBits f 2 1, driveStatus := fieldBits f 3 1, controlMode := fieldBits f 4 1,
        shaftPosition := sbe (memRead f 5 4), velocity := sbe (memRead f 9 2) }
  | .position =>
    .position
      { externalEncoderStatus := fieldBits f 2 1, externalAbsPos := fieldBits f 3 2, shaftPosition := fieldBits f 5 4,
        shaftEncoderStatus := fieldBits f 9 1, shaftAbsPos := fieldBits f 10 2 }
  | .drive =>
    .drive
      { driveStatus := fieldBits f 2 1, protectStatus1 := fieldBits f 3 2, protectStatus2 := fieldBits f 5 2,
        systemStatus1 := fieldBits f 7 2, systemStatus2 := fieldBits f 9 2 }
  | .info => .info (memRead f 2 9)

end Sys2Proof.Machine
end

