-- ==== Sys2Proof/Safety.lean ====
section
/-! DEFINITION. What counts as a safe state and a safe step, and the notions the claims about runs use: what a step releases and
accepts, what frees the tracker, and the receive pipeline driven by hand. -/

namespace Sys2Proof.Machine

/-! ## The invariants of R30 -/

/-- A length that a capacity allows; "unbounded" allows any (I2). -/
def withinCap (cap : Option Nat) (n : Nat) : Bool :=
  match cap with
  | none => true
  | some c => decide (n ≤ c)

/-- I3: the bytes of an entry are a command frame of its command. That its command is not `none` holds by the type. -/
abbrev Entry.Ok (p : Params) (e : Entry) : Prop :=
  e.bytes[0]? = some p.markCmd ∧ e.bytes[1]? = some (BitVec.ofNat 8 e.bytes.length) ∧ e.bytes[2]? = some (p.opc e.cmd) ∧
    4 ≤ e.bytes.length ∧ e.bytes.length ≤ 8 ∧ sum8 e.bytes = 0

/-- The invariants I2 and I3 of R30. I4, and the first half of I1, hold by the type of `outstanding`. -/
abbrev State.Inv (s : State) : Prop :=
  withinCap s.cfg.qdepth s.q.length = true ∧ withinCap s.cfg.rxbufCap s.rxbuf.length = true ∧
    ∀ e ∈ s.q, e.Ok s.cfg.toParams

/-- A safe outcome: the machine goes on, in a state that meets the invariants. -/
def SafeOutcome (o : Host.Outcome State Fault Refusal) : Prop := ∃ t, o = .next t ∧ t.Inv

/-! ## Who may answer what -/

/-- Every operation word with select code `k` and `RSV = 0` is the instruction `dec` reads off its fields (R75). -/
def SelectCode (k : BitVec 4) (dec : OpWord → Instr) : Prop :=
  ∀ w : OpWord, opField w = k → rsvField w = 0 → decodeOp w = .ok (dec w)

/-- CHECKSUM or VALIDATE, the two operations on `RXBUF[0:n]`. -/
def readsPrefix : Instr → Bool
  | .checksum _ => true
  | .validate _ => true
  | _ => false

/-- ENQUEUE. -/
def isEnqueue : Instr → Bool
  | .enqueue _ _ _ => true
  | _ => false

/-- ENCODE, ENQUEUE, RXDROP, CHECKSUM or VALIDATE, the operations that check an operand. -/
def checksOperand : Instr → Bool
  | .encode _ _ _ => true
  | .enqueue _ _ _ => true
  | .rxdrop _ => true
  | .checksum _ => true
  | .validate _ => true
  | _ => false

/-- RXPUSH. -/
def isRxpush : Instr → Bool
  | .rxpush _ => true
  | _ => false

/-- The reserved select code. -/
def isReserved : Instr → Bool
  | .reservedOp15 _ => true
  | _ => false

/-- The column "raised by" of R161, for an operation word that decodes to `i` or is rejected. -/
def raises (rc : ResultCode) (i : Option Instr) : Bool :=
  match rc with
  | .ok => i.any fun j => !isReserved j
  | .empty => i == some .popnext
  | .blocked => i == some .popnext
  | .framingError => i.any fun j => readsPrefix j || j == .rxstep
  | .checksumError => i == some .rxstep
  | .deviceRejected => i == some .rxstep
  | .unexpectedReplyLength => i == some .rxstep
  | .invalidArgument => i.any checksOperand
  | .queueFull => i.any isEnqueue
  | .rxFull => i.any isRxpush
  | .badOperation => i.all isReserved

/-- The column "information carried" of R161; what `OK` carries is the operation's. -/
def carries (rc : ResultCode) (d : ResultData) : Bool :=
  match rc with
  | .ok => true
  | .empty => d == .nothing
  | .blocked => match d with | .command _ => true | _ => false
  | .framingError => match d with | .length _ => true | _ => false
  | .checksumError => match d with | .frame _ => true | _ => false
  | .deviceRejected => match d with | .command _ => true | _ => false
  | .unexpectedReplyLength => match d with | .reply _ _ _ => true | _ => false
  | .invalidArgument => match d with | .operand _ => true | _ => false
  | .queueFull => d == .nothing
  | .rxFull => d == .nothing
  | .badOperation => d == .nothing

/-- The pieces of the SFC's state an instruction may change. -/
structure Touches where
  queue : Bool
  tracker : Bool
  buffer : Bool

/-- The pieces of state each instruction may change, after R23, R25, R26 and R40: the queue, the outstanding command, the receive
buffer. The rows of the wire stand under the operation that meets them (notes/assumptions/5.md). -/
def touches : Instr → Touches
  | .nop => ⟨false, false, false⟩
  | .reset => ⟨true, true, true⟩
  | .encode _ _ _ => ⟨false, false, false⟩
  | .enqueue _ _ _ => ⟨true, false, false⟩
  | .popnext => ⟨true, true, false⟩
  | .replydone => ⟨false, true, false⟩
  | .isidle => ⟨false, false, false⟩
  | .clearq => ⟨true, true, false⟩
  | .rxpush _ => ⟨false, false, true⟩
  | .extract => ⟨false, false, false⟩
  | .rxdrop _ => ⟨false, false, true⟩
  | .checksum _ => ⟨false, false, false⟩
  | .validate _ => ⟨false, false, false⟩
  | .rxstep => ⟨false, true, true⟩
  | .rxflush => ⟨false, false, true⟩
  | .reservedOp15 _ => ⟨false, false, false⟩
  | .clearError _ => ⟨true, true, false⟩
  | .setControlMode _ => ⟨true, true, false⟩
  | .getActuatorInfo _ => ⟨true, true, false⟩
  | .clearShaftPosition _ => ⟨true, true, false⟩
  | .setWatchdog _ => ⟨true, true, false⟩
  | .setTrapezoidalVelocity _ => ⟨true, true, false⟩
  | .setTrapezoidalPosition _ => ⟨true, true, false⟩
  | .getPosition _ => ⟨true, true, false⟩
  | .getStatus _ => ⟨true, true, false⟩
  | .getDriveStatus _ => ⟨true, true, false⟩
  | .setVelocity _ => ⟨true, true, false⟩
  | .setShaftPosition _ => ⟨true, true, false⟩
  | .ack => ⟨false, true, true⟩
  | .nak => ⟨false, true, true⟩
  | .replyUnchanged _ => ⟨false, true, true⟩
  | .replyChanged _ => ⟨false, true, true⟩

/-! ## Runs -/

/-- The state after one instruction. -/
def State.after (s : State) (i : Instr) : State :=
  match exec i s with
  | .next t => t
  | .fault _ => s
  | .refused _ => s

/-- The state after one step. -/
def State.next (s : State) : State :=
  match step s with
  | .next t => t
  | .fault _ => s
  | .refused _ => s

/-- The state after `k` steps. -/
def State.nth (s : State) : Nat → State
  | 0 => s
  | k + 1 => s.next.nth k

/-- The host operation that the next step runs, if any. -/
def State.nextOp (s : State) : Option Instr :=
  match s.ops with
  | [] => none
  | w :: _ => (decodeOp w).toOption

/-- The frame that the next step hands to the host: the answer of a successful POPNEXT. -/
def State.released (s : State) : List Entry :=
  if s.nextOp = some .popnext then
    match s.next.result with
    | some ⟨_, .released c f⟩ => [⟨c, f⟩]
    | _ => []
  else []

/-- The entry that the next step accepts: what a successful ENQUEUE put behind the entries that stood in the queue. -/
def State.accepted (s : State) : List Entry :=
  if s.nextOp.any isEnqueue = true ∧ s.next.result = some ⟨.ok, .nothing⟩ then s.next.q.drop s.q.length else []

/-- The frames released in `k` steps, in order. -/
def State.releasedIn (s : State) : Nat → List Entry
  | 0 => []
  | k + 1 => s.released ++ s.next.releasedIn k

/-- The entries accepted in `k` steps, in order. -/
def State.acceptedIn (s : State) : Nat → List Entry
  | 0 => []
  | k + 1 => s.accepted ++ s.next.acceptedIn k

/-- The next step runs CLEARQ or RESET. -/
def State.clearsQueue (s : State) : Bool := s.nextOp == some .clearq || s.nextOp == some .reset

/-- A data that answers the outstanding command: an ACK or a decoded reply. -/
def ResultData.isAnswer : ResultData → Bool
  | .event .acked => true
  | .event (.decoded _ _) => true
  | _ => false

/-- A result of RXSTEP that answers the outstanding command: ACK, NAK or a decoded reply (R51). -/
def isAnswer : Option Result → Bool
  | none => false
  | some r => if r.rc = .deviceRejected then true else r.rc == .ok && r.data.isAnswer

/-- The next step writes `OUTSTANDING <- none`: it runs REPLYDONE, CLEARQ or RESET, or an RXSTEP that meets an ACK, a NAK or a reply
it decodes (R25, R51). -/
def State.freesTracker (s : State) : Bool :=
  s.nextOp == some .replydone || s.nextOp == some .clearq || s.nextOp == some .reset
    || (s.nextOp == some .rxstep && isAnswer s.next.result)

/-! ## The fairness hypotheses of R189

Liveness is not promised (R197): no definition of the machine uses these. A claim of progress takes them as premises. A host is here the
endless sequence of the operation words it issues. -/

/-- The state in which a host that issues the words `host 0`, `host 1`, … issues the `k`-th. -/
def State.under (s : State) (host : Nat → OpWord) : Nat → State
  | 0 => { s with ops := [host 0] }
  | k + 1 => { (s.under host k).next with ops := [host (k + 1)] }

/-- The next step meets the device's answer: an ACK, a NAK or a well-formed reply of the expected length (R189). -/
def State.answeredByDevice (s : State) : Bool := s.nextOp == some .rxstep && isAnswer s.next.result

/-- The next step is the host giving the outstanding command up: REPLYDONE or CLEARQ (R189). -/
def State.releasedByHost (s : State) : Bool := s.nextOp == some .replydone || s.nextOp == some .clearq

/-- The hypothesis of R189: every outstanding command is eventually answered by the device, or the host eventually issues REPLYDONE or
CLEARQ. -/
def EveryCommandSettled (run : Nat → State) : Prop :=
  ∀ k, (run k).outstanding ≠ none → ∃ j, k ≤ j ∧ ((run j).answeredByDevice = true ∨ (run j).releasedByHost = true)

/-- The host keeps asking for the next frame: where one may be released, it eventually issues a POPNEXT (the pump of R80, R189). -/
def HostKeepsPumping (run : Nat → State) : Prop :=
  ∀ k, (run k).outstanding = none → (run k).q ≠ [] → ∃ j, k ≤ j ∧ (run j).nextOp = some .popnext

/-- The host eventually queues nothing more: an idle state needs an end of the requests. -/
def HostEndsRequests (run : Nat → State) : Prop := ∃ n, ∀ k, n ≤ k → (run k).accepted = []

/-! ## Draining -/

/-- `k` RXSTEP operations, one after the other. -/
def State.drain (s : State) : Nat → State
  | 0 => s
  | k + 1 => (s.after .rxstep).drain k

/-! ## The receive pipeline driven by hand (R112) -/

/-- The count operand `n` of RXDROP and VALIDATE. -/
def count (n : Nat) : Word := BitVec.ofNat 32 n

/-- What the host does after `Complete(len)` for a reply frame of two bytes or more: VALIDATE, the length check against
`EXPLEN(OUTSTANDING)`, RXDROP, and REPLYDONE where the reply is accepted (R112). It answers the state and what it found. -/
def State.handReply (s : State) (len : Nat) : State × Result :=
  let f := s.rxbuf.take len
  let c := s.outstanding
  let v := s.after (.validate (count len))
  let d := v.after (.rxdrop (count len))
  if v.result = some ⟨.ok, .bit 1⟩ then
    match kindOf c, expLen c with
    | some k, some e =>
      if e = len then (d.after .replydone, ⟨.ok, .event (.decoded k f)⟩)
      else (d, ⟨.unexpectedReplyLength, .reply len c f⟩)
    | _, _ => (d, ⟨.unexpectedReplyLength, .reply len c f⟩)
  else (d, ⟨.checksumError, .frame f⟩)

/-- One turn of the hand-driven receive sequence: EXTRACT, then the operations R112 lists for its outcome. It answers the state and
what it found. -/
def State.handDriven (s : State) : State × Result :=
  let x := s.after .extract
  match x.result with
  | some ⟨.ok, .extracted (.discard n)⟩ => (x.after (.rxdrop (count n)), ⟨.ok, .event (.discarded n)⟩)
  | some ⟨.ok, .extracted (.complete len)⟩ =>
    if x.rxbuf.head? = some ackByte then ((x.after (.rxdrop 1)).after .replydone, ⟨.ok, .event .acked⟩)
    else if x.rxbuf.head? = some nakByte then
      ((x.after (.rxdrop 1)).after .replydone, ⟨.deviceRejected, .command x.outstanding⟩)
    else if len < 2 then (x.after (.rxdrop (count (max len 1))), ⟨.framingError, .length len⟩)
    else x.handReply len
  | _ => (x, ⟨.ok, .event .wait⟩)

/-! ## The named sequences of the host (R80) -/

/-- `INITDEVICE mode`, with the argument lengths `a1` and `a2` that no source gives (R80, R130). -/
def initDevice (mode : Word) (a1 a2 : BitVec 3) : List OpWord :=
  [opWord 7 0 0 0, opWord 3 1 0 0, opWord 3 1 0 0, opWord 3 6 a1 0, opWord 3 2 a2 mode, opWord 3 9 0 0]

/-- `REQUESTSTATUS` (R80). -/
def requestStatus : List OpWord := [opWord 3 9 0 0]

/-- `PUMP`: RXPUSH for each byte delivered, RXSTEP until it answers `WAIT`, then POPNEXT (R80). As many RXSTEP as there are bytes, and
one more, always reach `WAIT` (R156), and those after it change nothing. -/
def State.pump (s : State) (bytes : List Byte) : State :=
  let t := bytes.foldl (fun u b => u.after (.rxpush b)) s
  (t.drain (t.rxbuf.length + 1)).after .popnext

end Sys2Proof.Machine
end

