-- ==== Sys2Proof/Certificates/Slice0/Obligations.lean ====
section
/-! DEFINITION. The statements about the model. Each docstring names the rule of spec/ it formalises, or says that it rests on a
choice of the model. -/

open Sys2Proof Sys2Proof.Machine

/-! ## Encoding and decoding -/

/-- Decoding the packet of a well-formed instruction gives it back, under every configuration (formats of R61, R65, R66, R74). -/
def Obligations.DecodeEncodeAgree : Prop :=
  ∀ (c : Config) (i : Instr), i.wf = true → decode c.toParams (encode c.toParams i) = .ok i

/-- The bytes a wire item was decoded from are the bytes it is encoded as: nothing of a frame is dropped, and what follows an inbound
item is handed back whole. -/
def Obligations.DecodedWireBytesEncodeBack : Prop :=
  ∀ (c : Config) (bs : List Byte),
    (∀ i, decodeFrame c.toParams bs = .ok i → i.wf = true ∧ encode c.toParams i = .queue bs) ∧
    (∀ i tl, decodeLine c.toParams bs = .ok (i, tl) →
      i.wf = true ∧ ∃ item, encode c.toParams i = .line item ∧ bs = item ++ tl)

/-- R75: the fifteen select codes with the operand fields each uses, every other field ignored; mask and match of the rows. -/
def Obligations.SelectCodesDecode : Prop :=
  (∀ (w : OpWord) (k : BitVec 4),
    w &&& (0xF0F800000000 : OpWord) = k.setWidth 48 <<< 44 ↔ opField w = k ∧ rsvField w = 0) ∧
  SelectCode 0 (fun _ => .nop) ∧ SelectCode 1 (fun _ => .reset) ∧
  SelectCode 2 (fun w => .encode (cmdField w) (alenField w) (valueField w)) ∧
  SelectCode 3 (fun w => .enqueue (cmdField w) (alenField w) (valueField w)) ∧
  SelectCode 4 (fun _ => .popnext) ∧ SelectCode 5 (fun _ => .replydone) ∧ SelectCode 6 (fun _ => .isidle) ∧
  SelectCode 7 (fun _ => .clearq) ∧ SelectCode 8 (fun w => .rxpush ((valueField w).setWidth 8)) ∧
  SelectCode 9 (fun _ => .extract) ∧ SelectCode 10 (fun w => .rxdrop (valueField w)) ∧
  SelectCode 11 (fun w => .checksum (valueField w)) ∧ SelectCode 12 (fun w => .validate (valueField w)) ∧
  SelectCode 13 (fun _ => .rxstep) ∧ SelectCode 14 (fun _ => .rxflush) ∧
  SelectCode 15 (fun w => .reservedOp15 (w.extractLsb' 0 44))

/-- R74: the operation word is its five fields, most significant first, and nothing else. -/
def Obligations.OperationWordIsItsFields : Prop :=
  ∀ w : OpWord, w = opField w ++ cmdField w ++ rsvField w ++ alenField w ++ valueField w

/-- R170: a word with `OP = 15` or a bit of `RSV` set answers `BadOperation` and changes no state of the SFC. -/
def Obligations.IllegalWordsAnswerBadOperation : Prop :=
  (∀ (s : State) (w : OpWord) (rest : List OpWord), s.ops = w :: rest → opField w = 15 ∨ rsvField w ≠ 0 →
    step s = .next { s with ops := rest, result := some ⟨.badOperation, .nothing⟩ }) ∧
  ∀ (r : BitVec 44) (s : State),
    exec (.reservedOp15 r) s = .next { s with result := some ⟨.badOperation, .nothing⟩ }

/-- Words written out from R74, R75 and the vectors of 95_test_vectors.md decode to what they stand for. -/
def Obligations.SampleWordsDecode : Prop :=
  decodeOp 0x3B02FFFFFB1E = .ok (.enqueue 11 2 0xFFFFFB1E) ∧ decodeOp 0xD00000000000 = .ok .rxstep ∧
  decodeOp 0x800000000055 = .ok (.rxpush 0x55) ∧ decodeOp 0x400800000000 = .error .reservedBits ∧
  decodeLine Config.testcfg.toParams [0x06, 0x7E] = .ok (.ack, [0x7E]) ∧
  decodeLine Config.testcfg.toParams [0x58, 0x04, 0x01, 0xA3] = .ok (.replyChanged [0x01, 0xA3], []) ∧
  decodeFrame Config.testcfg.toParams [0x43, 0x06, 0x2B, 0xFB, 0x1E, 0x73] = .ok (.setVelocity [0xFB, 0x1E])

/-- R77: the command index, both ways; 0 is `none`, 13 to 15 are illegal and answer `InvalidArgument`. -/
def Obligations.CommandIndexTable : Prop :=
  (∀ (i : BitVec 4) (c : TxCommand), TxCommand.ofIdx i = some c ↔ cmdIdx (some c) = i) ∧
  (∀ i : BitVec 4, TxCommand.ofIdx i = none ↔ i = 0 ∨ 13 ≤ i.toNat) ∧ cmdIdx none = 0 ∧
  (∀ (i : BitVec 4) (alen : BitVec 3) (W : Word) (s : State), 13 ≤ i.toNat →
    exec (.encode i alen W) s = .next { s with result := some ⟨.invalidArgument, .operand (.cmd i)⟩ } ∧
    exec (.enqueue i alen W) s = .next { s with result := some ⟨.invalidArgument, .operand (.cmd i)⟩ }) ∧
  TxCommand.all.map (fun c => (cmdIdx (some c)).toNat) = [1, 2, 3, 4, 5, 6, 7, 8, 9, 10, 11, 12] ∧
  TxCommand.all = [.clearError, .setControlMode, .getActuatorInfo, .clearShaftPosition, .setWatchdog, .setTrapezoidalVelocity,
    .setTrapezoidalPosition, .getPosition, .getStatus, .getDriveStatus, .setVelocity, .setShaftPosition]

/-- R9: what every configuration meets. -/
def Obligations.ConfigurationsMeetConstraints : Prop :=
  ∀ c : Config,
    [ackByte, nakByte, c.markReplyUnchanged, c.markReplyChanged].Nodup ∧
    c.markCmd ∉ [ackByte, nakByte, c.markReplyUnchanged, c.markReplyChanged] ∧
    (∀ a b, c.opc a = c.opc b → a = b) ∧ (∀ n, c.rxbufCap = some n → 255 ≤ n) ∧ ∀ n, c.qdepth = some n → 1 ≤ n

/-! ## The step -/

/-- A step runs the decoded operation: the host's next word is taken, and where it decodes, the step is the meaning of the instruction
on the state without that word. -/
def Obligations.StepRunsDecodedOperation : Prop :=
  ∀ (s : State) (w : OpWord) (rest : List OpWord) (i : Instr),
    s.ops = w :: rest → decodeOp w = .ok i → step s = exec i { s with ops := rest }

/-- Where the host issues no operation, nothing happens: the model's reading of R171 and R180 (notes/assumptions/4.md). -/
def Obligations.StepWithoutOperationChangesNothing : Prop :=
  ∀ s : State, s.ops = [] → step s = .next s

/-- RXSTEP runs the item at offset 0 of the receive buffer: where those bytes decode to an inbound item, RXSTEP is the meaning of that
item, and it leaves the bytes after the item. -/
def Obligations.RxstepRunsItemAtOffsetZero : Prop :=
  ∀ (s : State) (i : Instr) (tl : List Byte), decodeLine s.cfg.toParams s.rxbuf = .ok (i, tl) →
    exec .rxstep s = exec i s ∧ ∃ t, exec i s = .next t ∧ t.rxbuf = tl ∧ t.q = s.q

/-- POPNEXT runs the frame at the head of the queue: in a state with the invariants of R30 the head decodes to a command frame of
its command, and POPNEXT is the meaning of that frame. -/
def Obligations.PopnextRunsFrameAtHead : Prop :=
  ∀ (s : State) (e : Entry) (tl : List Entry), s.Inv → s.q = e :: tl →
    ∃ arg, decodeFrame s.cfg.toParams e.bytes = .ok (Instr.ofCommand arg e.cmd) ∧
      e.bytes = commandFrame s.cfg.toParams e.cmd arg ∧ exec .popnext s = exec (Instr.ofCommand arg e.cmd) s

/-- No instruction faults or is refused, in any state: every operation returns a result (R15, R166, R173). -/
def Obligations.EveryInstructionCompletes : Prop :=
  (∀ (i : Instr) (s : State), ∃ t, exec i s = .next t) ∧ ∀ s : State, ∃ t, step s = .next t

/-! ## Invariants and whole-machine rules -/

/-- Every step keeps the invariants I2 and I3 of R30, and never replaces an outstanding command by another (I1). -/
def Obligations.StepKeepsInvariants : Prop :=
  ∀ s t : State, s.Inv → step s = .next t →
    t.Inv ∧ ∀ c, s.outstanding = some c → t.outstanding = some c ∨ t.outstanding = none

/-- The state after reset has the invariants, and so has the state after a RESET operation in any state. -/
def Obligations.ResetHasInvariants : Prop :=
  State.reset.Inv ∧ ∀ s : State, ∃ t, exec .reset s = .next t ∧ t.Inv

/-- R30: after reset and after every operation the host then issues, whatever they are and under every configuration, the invariants
hold, and no operation replaces an outstanding command by another. -/
def Obligations.InvariantsHoldForEveryHost : Prop :=
  ∀ (c : Config) (ops : List OpWord) (k : Nat),
    let s := ({ State.reset with cfg := c, ops := ops } : State).nth k
    s.Inv ∧ ∀ d, s.outstanding = some d → s.next.outstanding = some d ∨ s.next.outstanding = none

/-- R33, the parameters never change while the SFC runs; and no operation reaches the host's further words, which is the model's own
frame (notes/assumptions/1.md and 4.md). -/
def Obligations.ConfigurationNeverChanges : Prop :=
  (∀ (i : Instr) (s t : State), exec i s = .next t → t.cfg = s.cfg ∧ t.ops = s.ops) ∧
  ∀ s t : State, step s = .next t → t.cfg = s.cfg ∧ t.ops = s.ops.tail

/-- The frame of the whole machine: an instruction that is not of those listed for a piece of state leaves it as it was; every
instruction leaves a result. For the fifteen host operations and the reserved code the lists are those of R23, R25, R26 and R40; for the
sixteen rows of the wire they rest on the model's choice to run such a row as the branch or the release that meets it
(notes/assumptions/5.md). -/
def Obligations.OnlyListedInstructionsChangeState : Prop :=
  ∀ (i : Instr) (s t : State), exec i s = .next t →
    ((touches i).queue = false → t.q = s.q) ∧ ((touches i).tracker = false → t.outstanding = s.outstanding) ∧
    ((touches i).buffer = false → t.rxbuf = s.rxbuf) ∧ t.result.isSome = true

/-- No operation but POPNEXT sets the tracker, and none but those of R25 frees it: REPLYDONE, CLEARQ, RESET, and an RXSTEP that meets
an ACK, a NAK or a reply it decodes. -/
def Obligations.TrackerChangesOnlyAsListed : Prop :=
  ∀ s t : State, step s = .next t → t.outstanding ≠ s.outstanding →
    (s.outstanding = none ∧ s.nextOp = some .popnext ∧ ∃ e, s.q.head? = some e ∧ t.outstanding = some e.cmd) ∨
    (s.outstanding ≠ none ∧ t.outstanding = none ∧ s.freesTracker = true)

/-- The first two laws of R51 and R129: over any run of any host, the frames released, followed by those still queued, are a
subsequence of the frames queued at the start followed by those accepted, in the same order; and all of them, where nothing
emptied the queue. -/
def Obligations.FramesLeaveInEnqueueOrder : Prop :=
  ∀ (s : State) (k : Nat),
    (s.releasedIn k ++ (s.nth k).q).Sublist (s.q ++ s.acceptedIn k) ∧
    ((∀ j, j < k → (s.nth j).clearsQueue = false) → s.releasedIn k ++ (s.nth k).q = s.q ++ s.acceptedIn k)

/-- Between two frames released there is an operation that wrote `OUTSTANDING <- none` (Q2 of R129, the second sentence of R51). -/
def Obligations.TrackerFreedBetweenReleases : Prop :=
  ∀ (s : State) (k : Nat), s.released ≠ [] → (s.nth (k + 1)).released ≠ [] →
    ∃ j, 1 ≤ j ∧ j ≤ k ∧ (s.nth j).freesTracker = true

/-- A successful ENQUEUE raises `ST_QCOUNT` by one, a successful POPNEXT lowers it by one, and nothing but these, CLEARQ and RESET changes
it (Q4 of R129); over a step the count is kept by what is released and accepted; and `ST_IDLE` is 1 exactly when POPNEXT would answer
`Empty` (Q3). -/
def Obligations.QueueCountLaws : Prop :=
  (∀ (s t : State) (d : ResultData), step s = .next t → s.nextOp.any isEnqueue = true → t.result = some ⟨.ok, d⟩ →
    t.stQcount = s.stQcount + 1 ∧ s.accepted.length = 1) ∧
  (∀ (s t : State) (d : ResultData), step s = .next t → s.nextOp = some .popnext → t.result = some ⟨.ok, d⟩ →
    t.stQcount + 1 = s.stQcount ∧ s.released.length = 1) ∧
  (∀ s t : State, step s = .next t → s.clearsQueue = false → t.stQcount ≠ s.stQcount →
    (s.nextOp.any isEnqueue = true ∨ s.nextOp = some .popnext) ∧ ∃ d, t.result = some ⟨.ok, d⟩) ∧
  (∀ s t : State, step s = .next t → s.clearsQueue = false →
    t.stQcount + s.released.length = s.stQcount + s.accepted.length ∧ s.released.length + s.accepted.length ≤ 1) ∧
  ∀ s t : State, exec .popnext s = .next t → (s.stIdle = 1 ↔ t.result = some ⟨.empty, .nothing⟩)

/-- R161: the numbers of the result codes, which operations answer each, and what information it carries. -/
def Obligations.ResultCodesAsListed : Prop :=
  (∀ (s t : State) (w : OpWord) (rest : List OpWord), s.ops = w :: rest → step s = .next t →
    ∃ r, t.result = some r ∧ raises r.rc s.nextOp = true ∧ carries r.rc r.data = true) ∧
  [ResultCode.ok, .empty, .blocked, .framingError, .checksumError, .deviceRejected, .unexpectedReplyLength, .invalidArgument,
    .queueFull, .rxFull, .badOperation].map ResultCode.code =
    [0x00, 0x01, 0x02, 0x10, 0x11, 0x12, 0x13, 0x14, 0x20, 0x21, 0x22]

/-- R49: six operations change no state and repeat their result; four are idempotent; five are not; POPNEXT is a read that removes
the head and sets `OUTSTANDING`. -/
def Obligations.SideEffectsAndIdempotency : Prop :=
  (∀ (i : Instr) (s : State), (i = .nop ∨ (∃ a b c, i = .encode a b c) ∨ i = .isidle ∨ i = .extract ∨ (∃ n, i = .checksum n) ∨
      ∃ n, i = .validate n) →
    ∃ r, s.after i = { s with result := r } ∧ (s.after i).after i = s.after i) ∧
  (∀ (i : Instr) (s : State), (i = .replydone ∨ i = .clearq ∨ i = .rxflush ∨ i = .reset) → (s.after i).after i = s.after i) ∧
  (∀ i ∈ [Instr.enqueue 9 0 0, .popnext, .rxpush 0, .rxdrop 1, .rxstep], ∃ s : State,
    ((s.after i).after i).q ≠ (s.after i).q ∨ ((s.after i).after i).rxbuf ≠ (s.after i).rxbuf ∨
      ((s.after i).after i).result ≠ (s.after i).result) ∧
  ∀ (s : State) (e : Entry) (tl : List Entry), s.outstanding = none → s.q = e :: tl →
    (s.after .popnext).q = tl ∧ (s.after .popnext).outstanding = some e.cmd

/-! ## Reset and status -/

/-- R31: the state at power-on and after RESET, and the reset column of the status outputs (R27). -/
def Obligations.ResetValues : Prop :=
  State.reset.q = [] ∧ State.reset.outstanding = none ∧ State.reset.rxbuf = [] ∧
  ∀ s t : State, exec .reset s = .next t ∨ t = State.reset →
    t.q = [] ∧ t.outstanding = none ∧ t.rxbuf = [] ∧
    t.stOutstanding = 0 ∧ t.stQcount = 0 ∧ t.stRxcount = 0 ∧ t.stIdle = 1 ∧ t.stPending = 0

/-- R27, the value column of the five status outputs. -/
def Obligations.StatusOutputs : Prop :=
  ∀ s : State, s.stOutstanding = cmdIdx s.outstanding ∧ s.stQcount = s.q.length ∧ s.stRxcount = s.rxbuf.length ∧
    (s.stIdle = if s.q.length = 0 ∧ s.outstanding = none then 1 else 0) ∧
    (s.stPending = if s.outstanding ≠ none then 1 else 0)

/-! ## The operations -/

/-- R128: NOP. -/
def Obligations.NopAnswersOk : Prop :=
  SelectCode 0 (fun _ => .nop) ∧ decodeOp 0 = .ok .nop ∧
  ∀ s : State, exec .nop s = .next { s with result := some ⟨.ok, .nothing⟩ }

/-- R185: RESET empties all of the state, is idempotent, differs from CLEARQ only in emptying `RXBUF`, and leaves the parameters. -/
def Obligations.ResetEmptiesAllState : Prop :=
  SelectCode 1 (fun _ => .reset) ∧
  ∀ s : State,
    let t : State := { s with q := [], outstanding := none, rxbuf := [], result := some ⟨.ok, .nothing⟩ }
    exec .reset s = .next t ∧ exec .reset t = .next t ∧
    (∀ u, exec .clearq s = .next u → t = { u with rxbuf := [] }) ∧
    t.stQcount = 0 ∧ t.stRxcount = 0 ∧ t.stOutstanding = 0 ∧ t.stIdle = 1 ∧ t.stPending = 0

/-- R96: `encode`. -/
def Obligations.EncodeBuildsCommandFrame : Prop :=
  ∀ (p : Params) (c : TxCommand) (W : Word) (n : Nat), n ≤ 4 →
    let body := [p.markCmd, BitVec.ofNat 8 (4 + n), p.opc c] ++ be W n
    encodeFrame p c W n = body ++ [BitVec.ofNat 8 ((256 - (sum8 body).toNat) % 256)] ∧ (encodeFrame p c W n).length = 4 + n

/-- R97: ENCODE, its three outcomes in their order; no state is written. -/
def Obligations.EncodeAnswersFrame : Prop :=
  SelectCode 2 (fun w => .encode (cmdField w) (alenField w) (valueField w)) ∧
  (∀ (cmd : BitVec 4) (alen : BitVec 3) (W : Word) (s : State), cmd = 0 ∨ 13 ≤ cmd.toNat →
    exec (.encode cmd alen W) s = .next { s with result := some ⟨.invalidArgument, .operand (.cmd cmd)⟩ }) ∧
  ∀ (c : TxCommand) (alen : BitVec 3) (W : Word) (s : State),
    exec (.encode (cmdIdx (some c)) alen W) s = .next
      (if 4 < alen.toNat then { s with result := some ⟨.invalidArgument, .operand (.alen alen)⟩ }
       else { s with result := some ⟨.ok, .frame (encodeFrame s.cfg.toParams c W alen.toNat)⟩ })

/-- R121: ENQUEUE, its tests in the order written and the entry at the tail. -/
def Obligations.EnqueueAppendsEncodedFrame : Prop :=
  SelectCode 3 (fun w => .enqueue (cmdField w) (alenField w) (valueField w)) ∧
  (∀ (cmd : BitVec 4) (alen : BitVec 3) (W : Word) (s : State), cmd = 0 ∨ 13 ≤ cmd.toNat →
    exec (.enqueue cmd alen W) s = .next { s with result := some ⟨.invalidArgument, .operand (.cmd cmd)⟩ }) ∧
  ∀ (c : TxCommand) (alen : BitVec 3) (W : Word) (s : State),
    exec (.enqueue (cmdIdx (some c)) alen W) s = .next
      (if 4 < alen.toNat then { s with result := some ⟨.invalidArgument, .operand (.alen alen)⟩ }
       else if fits W alen.toNat = false then { s with result := some ⟨.invalidArgument, .operand (.value W)⟩ }
       else if s.cfg.qdepth = some s.q.length then { s with result := some ⟨.queueFull, .nothing⟩ }
       else { s with q := s.q ++ [⟨c, encodeFrame s.cfg.toParams c W alen.toNat⟩], result := some ⟨.ok, .nothing⟩ })

/-- R123: POPNEXT, its three outcomes in their order. -/
def Obligations.PopnextReleasesHead : Prop :=
  SelectCode 4 (fun _ => .popnext) ∧
  (∀ (s : State) (c : TxCommand), s.outstanding = some c →
    exec .popnext s = .next { s with result := some ⟨.blocked, .command (some c)⟩ }) ∧
  (∀ s : State, s.outstanding = none → s.q = [] → exec .popnext s = .next { s with result := some ⟨.empty, .nothing⟩ }) ∧
  ∀ (s : State) (c : TxCommand) (f : List Byte) (tl : List Entry), s.outstanding = none → s.q = ⟨c, f⟩ :: tl →
    exec .popnext s = .next { s with q := tl, outstanding := some c, result := some ⟨.ok, .released c f⟩ }

/-- R125: REPLYDONE. -/
def Obligations.ReplydoneFreesTracker : Prop :=
  SelectCode 5 (fun _ => .replydone) ∧
  ∀ s : State, exec .replydone s = .next { s with outstanding := none, result := some ⟨.ok, .nothing⟩ }

/-- R126: ISIDLE answers whether the queue is empty and no command is outstanding, which is `ST_IDLE`; the receive buffer plays no
part; it is 1 after RESET, and 0 while a command is outstanding although the queue is empty. -/
def Obligations.IsidleReportsQuiescence : Prop :=
  SelectCode 6 (fun _ => .isidle) ∧
  (∀ s : State, exec .isidle s = .next { s with result := some ⟨.ok, .bit s.stIdle⟩ } ∧
    (s.stIdle = 1 ↔ s.q = [] ∧ s.outstanding = none) ∧ ∀ b, ({ s with rxbuf := b } : State).stIdle = s.stIdle) ∧
  (∀ s t : State, exec .reset s = .next t → t.stIdle = 1) ∧
  ∀ (s : State) (c : TxCommand), s.q = [] → s.outstanding = some c → s.stIdle = 0

/-- R127: CLEARQ empties the queue and the tracker, not the receive buffer; on an idle SFC it changes no state. -/
def Obligations.ClearqAbandonsBacklog : Prop :=
  SelectCode 7 (fun _ => .clearq) ∧
  (∀ s : State, exec .clearq s = .next { s with q := [], outstanding := none, result := some ⟨.ok, .nothing⟩ }) ∧
  ∀ s : State, s.stIdle = 1 → exec .clearq s = .next { s with result := some ⟨.ok, .nothing⟩ }

/-- R109: RXPUSH, at capacity and below it; never `RxFull` with an unbounded buffer. -/
def Obligations.RxpushAppendsByte : Prop :=
  SelectCode 8 (fun w => .rxpush ((valueField w).setWidth 8)) ∧
  (∀ (b : Byte) (s : State), exec (.rxpush b) s = .next
    (if s.cfg.rxbufCap = some s.rxbuf.length then { s with result := some ⟨.rxFull, .nothing⟩ }
     else { s with rxbuf := s.rxbuf ++ [b], result := some ⟨.ok, .nothing⟩ })) ∧
  ∀ (b : Byte) (s : State), s.cfg.rxbufCap = none →
    exec (.rxpush b) s = .next { s with rxbuf := s.rxbuf ++ [b], result := some ⟨.ok, .nothing⟩ }

/-- R106: EXTRACT answers the extractor's outcome on the receive buffer and changes no state. -/
def Obligations.ExtractAnswersOutcome : Prop :=
  SelectCode 9 (fun _ => .extract) ∧
  ∀ s : State, exec .extract s = .next { s with result := some ⟨.ok, .extracted (extract s.cfg.toParams s.rxbuf)⟩ }

/-- R111: RXDROP. -/
def Obligations.RxdropRemovesOldest : Prop :=
  SelectCode 10 (fun w => .rxdrop (valueField w)) ∧
  ∀ (n : Word) (s : State), exec (.rxdrop n) s = .next
    (if s.rxbuf.length < n.toNat then { s with result := some ⟨.invalidArgument, .operand (.value n)⟩ }
     else { s with rxbuf := s.rxbuf.drop n.toNat, result := some ⟨.ok, .nothing⟩ })

/-- R91: CHECKSUM. -/
def Obligations.ChecksumAnswersByte : Prop :=
  SelectCode 11 (fun w => .checksum (valueField w)) ∧
  ∀ (n : Word) (s : State), exec (.checksum n) s = .next
    (if s.rxbuf.length < n.toNat then { s with result := some ⟨.invalidArgument, .operand (.value n)⟩ }
     else if n.toNat < 2 then { s with result := some ⟨.framingError, .length n.toNat⟩ }
     else { s with result := some ⟨.ok, .byte (BitVec.ofNat 8 ((256 - (sum8 (s.rxbuf.take (n.toNat - 1))).toNat) % 256))⟩ })

/-- R93: VALIDATE; 1 exactly when the bytes sum to 0 modulo 256. -/
def Obligations.ValidateAnswersBit : Prop :=
  SelectCode 12 (fun w => .validate (valueField w)) ∧
  ∀ (n : Word) (s : State), exec (.validate n) s = .next
    (if s.rxbuf.length < n.toNat then { s with result := some ⟨.invalidArgument, .operand (.value n)⟩ }
     else if n.toNat < 2 then { s with result := some ⟨.framingError, .length n.toNat⟩ }
     else { s with result := some ⟨.ok, .bit (if sum8 (s.rxbuf.take n.toNat) = 0 then 1 else 0)⟩ })

/-- R113: RXFLUSH. -/
def Obligations.RxflushEmptiesBuffer : Prop :=
  SelectCode 14 (fun _ => .rxflush) ∧
  ∀ s : State, exec .rxflush s = .next { s with rxbuf := [], result := some ⟨.ok, .nothing⟩ }

/-- R141 and R142: RXSTEP waits for an incomplete item and changes nothing; it removes noise, after which the buffer is empty or begins
with a recognised byte. -/
def Obligations.RxstepWaitsOrDiscards : Prop :=
  (∀ s : State, (s.rxbuf = [] ∨ (∃ m, s.rxbuf = [m] ∧ isReplyMarker s.cfg.toParams m = true) ∨
      ∃ m len body, s.rxbuf = m :: len :: body ∧ isReplyMarker s.cfg.toParams m = true ∧ s.rxbuf.length < len.toNat) →
    exec .rxstep s = .next { s with result := some ⟨.ok, .event .wait⟩ }) ∧
  ∀ (s : State) (noise tl : List Byte), s.rxbuf = noise ++ tl → noise ≠ [] →
    (∀ b ∈ noise, isRecognised s.cfg.toParams b = false) → (∀ b ∈ tl.head?, isRecognised s.cfg.toParams b = true) →
    exec .rxstep s = .next { s with rxbuf := tl, result := some ⟨.ok, .event (.discarded noise.length)⟩ }

/-- R143: an ACK at offset 0, whatever is outstanding. That the row ACK, run as an instruction, is that branch is the model's choice
(notes/assumptions/5.md). -/
def Obligations.AckClearsTracker : Prop :=
  ∀ (s : State) (tl : List Byte), s.rxbuf = 0x06 :: tl →
    exec .rxstep s = .next { s with rxbuf := tl, outstanding := none, result := some ⟨.ok, .event .acked⟩ } ∧
    exec .ack s = .next { s with rxbuf := tl, outstanding := none, result := some ⟨.ok, .event .acked⟩ }

/-- R144: a NAK at offset 0; the error carries the command that was outstanding, the queue is untouched and the next POPNEXT releases
its head. That the row NAK, run as an instruction, is that branch is the model's choice (notes/assumptions/5.md). -/
def Obligations.NakRejectsAndClearsTracker : Prop :=
  ∀ (s : State) (tl : List Byte), s.rxbuf = 0x15 :: tl →
    let t : State := { s with rxbuf := tl, outstanding := none, result := some ⟨.deviceRejected, .command s.outstanding⟩ }
    exec .rxstep s = .next t ∧ exec .nak s = .next t ∧
    ∀ e q, s.q = e :: q →
      exec .popnext t = .next { t with q := q, outstanding := some e.cmd, result := some ⟨.ok, .released e.cmd e.bytes⟩ }

/-- R145: a reply marker with declared length 0 or 1; one byte is dropped. -/
def Obligations.ShortDeclaredLengthIsFramingError : Prop :=
  ∀ (s : State) (m len : Byte) (body : List Byte), s.rxbuf = m :: len :: body → isReplyMarker s.cfg.toParams m = true →
    len.toNat < 2 →
    exec .rxstep s = .next { s with rxbuf := len :: body, result := some ⟨.framingError, .length len.toNat⟩ }

/-- R146, R147 and R148: a reply frame of 2 to 255 bytes at offset 0, of either marker. It is removed whole; a wrong sum is
`ChecksumError`; else a length that is not the expected one, or none expected, is `UnexpectedReplyLength`; else it is decoded and
the tracker freed. Both markers alike. That the two reply rows, run as instructions, are these branches is the model's choice
(notes/assumptions/5.md); the first clause carries each outcome over to RXSTEP. -/
def Obligations.ReplyFrameIsJudged : Prop :=
  ∀ (s : State) (rest tl : List Byte) (changed : Bool), rest.length ≤ 253 →
    let m := if changed then s.cfg.markReplyChanged else s.cfg.markReplyUnchanged
    let i := if changed then Instr.replyChanged rest else Instr.replyUnchanged rest
    let len := rest.length + 2
    let f := m :: BitVec.ofNat 8 len :: rest
    s.rxbuf = f ++ tl →
    exec .rxstep s = exec i s ∧
    (sum8 f ≠ 0 → exec i s = .next { s with rxbuf := tl, result := some ⟨.checksumError, .frame f⟩ }) ∧
    (sum8 f = 0 → expLen s.outstanding ≠ some len →
      exec i s = .next { s with rxbuf := tl, result := some ⟨.unexpectedReplyLength, .reply len s.outstanding f⟩ }) ∧
    ∀ k, sum8 f = 0 → expLen s.outstanding = some len → kindOf s.outstanding = some k →
      exec i s = .next { s with rxbuf := tl, outstanding := none, result := some ⟨.ok, .event (.decoded k f)⟩ }

/-- The twelve command rows: the frame, encoded as R96 says, leaves from the head of the queue and its command becomes the
outstanding one; `Blocked` while another is outstanding, `Empty` without a head. That a command row is this act is the model's
choice (notes/assumptions/5.md and 6.md). -/
def Obligations.CommandRowsTransmitTheirFrame : Prop :=
  ∀ (s : State) (c : TxCommand) (arg : List Byte),
    (∀ e tl, s.outstanding = none → s.q = e :: tl →
      exec (Instr.ofCommand arg c) s = .next
        { s with q := tl, outstanding := some c, result := some ⟨.ok, .released c (commandFrame s.cfg.toParams c arg)⟩ }) ∧
    (∀ d, s.outstanding = some d →
      exec (Instr.ofCommand arg c) s = .next { s with result := some ⟨.blocked, .command (some d)⟩ }) ∧
    (s.outstanding = none → s.q = [] →
      exec (Instr.ofCommand arg c) s = .next { s with result := some ⟨.empty, .nothing⟩ })

/-! ## Laws of the codec -/

/-- R63: the argument bytes, most significant first; the bits above the argument do not appear. And R46: a shorter argument is the
tail of the longer one. -/
def Obligations.ArgumentBytesAreBigEndian : Prop :=
  ∀ (W : Word) (n : Nat), n ≤ 4 →
    (be W n).length = n ∧ (∀ k, k < n → (be W n)[k]? = some (W.extractLsb' (8 * (n - 1 - k)) 8)) ∧
    be W n = (be W 4).drop (4 - n) ∧ be W n = be (W.extractLsb' 0 (8 * n) |>.setWidth 32) n

/-- R92 and R95: a frame is valid exactly when its last byte is the checksum, which is when its bytes sum to 0 modulo 256; and the laws
of the checksum. L1 the computed checksum makes a frame valid; L2 a change of one byte is always detected; L3
changes that cancel are not; L4 the order of the bytes does not matter. -/
def Obligations.ChecksumLaws : Prop :=
  ∀ s : List Byte, 2 ≤ s.length →
    (valid s = true ↔ s.getLast? = some (cksum s)) ∧ (valid s = true ↔ sum8 s = 0) ∧
    valid (s.set (s.length - 1) (cksum s)) = true ∧
    (∀ i b, i < s.length → s[i]? ≠ some b → valid s = true → valid (s.set i b) = false) ∧
    (∀ i j x y d, i ≠ j → s[i]? = some x → s[j]? = some y → valid s = true → valid ((s.set i (x + d)).set j (y - d)) = true) ∧
    ∀ t : List Byte, s.Perm t → valid t = valid s

/-- R98: `fits`, by bits and by integers; and where it holds, truncation loses nothing. -/
def Obligations.FitsIsRepresentability : Prop :=
  (∀ W : Word, (fits W 0 = true ↔ W = 0) ∧ fits W 4 = true) ∧
  (∀ (W : Word) (n : Nat), 1 ≤ n → n ≤ 3 →
    (fits W n = true ↔ (∀ j, 8 * n ≤ j → j < 32 → W.getLsbD j = false) ∨ ∀ j, 8 * n - 1 ≤ j → j < 32 → W.getLsbD j = true) ∧
    (fits W n = true ↔ W.toNat ≤ 2 ^ (8 * n) - 1 ∨ (-(2 ^ (8 * n - 1)) ≤ W.toInt ∧ W.toInt < 0))) ∧
  ∀ (W : Word) (n : Nat), n ≤ 4 → fits W n = true → sbe (be W n) = W.toInt ∨ ube (be W n) = W.toNat

/-- R99: the laws of `encode`. -/
def Obligations.EncodeLaws : Prop :=
  (∀ (c : Config) (d : TxCommand) (W : Word) (n : Nat), n ≤ 4 →
    valid (encodeFrame c.toParams d W n) = true ∧ (encodeFrame c.toParams d W n).length = 4 + n ∧
    (encodeFrame c.toParams d W n)[1]? = some (BitVec.ofNat 8 (4 + n)) ∧
    ∀ V : Word, V.toNat % 2 ^ (8 * n) = W.toNat % 2 ^ (8 * n) → encodeFrame c.toParams d V n = encodeFrame c.toParams d W n) ∧
  ∀ (c : Config) (d e : TxCommand) (V W : Word) (m n : Nat), m ≤ 4 → n ≤ 4 →
    encodeFrame c.toParams d V m = encodeFrame c.toParams e W n → d = e ∧ m = n ∧ V.toNat % 2 ^ (8 * m) = W.toNat % 2 ^ (8 * n)

/-- R100: `split` names the fields of a command frame and of a reply frame; for a reply of two bytes the length byte is the checksum
byte and the payload is empty. R100 defines `split` only for four bytes and more, and for two and more: the last clause, that it
answers none exactly below these, is the model's choice (notes/assumptions/13.md). -/
def Obligations.SplitNamesFields : Prop :=
  (∀ (m l c k : Byte) (pay : List Byte), splitCommand ([m, l, c] ++ pay ++ [k]) = some ⟨m, l, c, pay, k⟩) ∧
  (∀ (m l k : Byte) (pay : List Byte), splitReply ([m, l] ++ pay ++ [k]) = some ⟨m, l, pay, k⟩) ∧
  (∀ m l : Byte, splitReply [m, l] = some ⟨m, l, [], l⟩) ∧
  ∀ f : List Byte, (splitCommand f = none ↔ f.length < 4) ∧ (splitReply f = none ↔ f.length < 2)

/-- R7: the expected reply lengths. -/
def Obligations.ExpectedReplyLengths : Prop :=
  ∀ c : Command, expLen c =
    if c = some .getPosition then some 13
    else if c = some .getStatus ∨ c = some .getDriveStatus ∨ c = some .getActuatorInfo then some 12
    else none

/-! ## Laws of the extractor and of the receive pipeline -/

/-- R108: the laws of `extract`. X1 resynchronisation; X2 an answer that rests on a recognised byte does not change when bytes are
appended; X3 acting on the outcome shortens the buffer. -/
def Obligations.ExtractLaws : Prop :=
  (∀ (c : Config) (G F T : List Byte), G ≠ [] → (∀ b ∈ G, isRecognised c.toParams b = false) →
    ((∃ b, F = [b] ∧ isBare b = true) ∨
      ∃ m len body, F = m :: len :: body ∧ isReplyMarker c.toParams m = true ∧ len.toNat = F.length) →
    extract c.toParams (G ++ F ++ T) = .discard G.length ∧ extract c.toParams (F ++ T) = .complete F.length) ∧
  (∀ (c : Config) (B T : List Byte),
    (∀ len, extract c.toParams B = .complete len → extract c.toParams (B ++ T) = .complete len) ∧
    ∀ n, extract c.toParams B = .discard n → (∃ b ∈ B, isRecognised c.toParams b = true) →
      extract c.toParams (B ++ T) = .discard n) ∧
  ∀ (c : Config) (B : List Byte),
    (∀ n, extract c.toParams B = .discard n → (B.drop n).length < B.length) ∧
    ∀ len, extract c.toParams B = .complete len → (B.drop (max len 1)).length < B.length

/-- The bounds of the outcomes (R107(a), (b), (c), (h)): `Discard` takes 1 to all of the bytes, `Complete` declares at most what is
there and at most 255, and the empty buffer and a lone reply marker are `Incomplete`. -/
def Obligations.ExtractBounds : Prop :=
  ∀ (c : Config) (B : List Byte),
    (∀ n, extract c.toParams B = .discard n → 1 ≤ n ∧ n ≤ B.length) ∧
    (∀ len, extract c.toParams B = .complete len → len ≤ B.length ∧ len ≤ 255) ∧
    extract c.toParams [] = .incomplete ∧
    ∀ m, isReplyMarker c.toParams m = true → extract c.toParams [m] = .incomplete

/-- R157: what RXSTEP leaves unchanged, by its branch. -/
def Obligations.RxstepFrame : Prop :=
  ∀ s : State, ∃ t, exec .rxstep s = .next t ∧ t.q = s.q ∧ t.cfg = s.cfg ∧
    (isAnswer t.result = false → t.outstanding = s.outstanding) ∧
    (t.result = some ⟨.ok, .event .wait⟩ → t.rxbuf = s.rxbuf) ∧
    (t.result ≠ some ⟨.ok, .event .wait⟩ → t.rxbuf ≠ s.rxbuf)

/-- R156: every RXSTEP other than `WAIT` shortens the buffer; at most `|RXBUF|` of them precede the first `WAIT`; and a `WAIT` with
bytes left means a reply marker at offset 0 whose frame is not complete. -/
def Obligations.DrainingEndsInWait : Prop :=
  (∀ s t : State, exec .rxstep s = .next t → t.result ≠ some ⟨.ok, .event .wait⟩ → t.rxbuf.length < s.rxbuf.length) ∧
  (∀ s : State, ∃ k, k ≤ s.rxbuf.length ∧ (s.drain (k + 1)).result = some ⟨.ok, .event .wait⟩) ∧
  ∀ s t : State, exec .rxstep s = .next t → t.result = some ⟨.ok, .event .wait⟩ → s.rxbuf ≠ [] →
    ∃ m tl, s.rxbuf = m :: tl ∧ isReplyMarker s.cfg.toParams m = true ∧ ∀ len body, tl = len :: body → s.rxbuf.length < len.toNat

/-- A buffer drained to `WAIT` holds at most 254 bytes, so that the next byte is never refused (R195, R9(d)). -/
def Obligations.DrainedBufferTakesNextByte : Prop :=
  ∀ (s t : State) (b : Byte), exec .rxstep s = .next t → t.result = some ⟨.ok, .event .wait⟩ →
    t.rxbuf.length ≤ 254 ∧
    exec (.rxpush b) t = .next { t with rxbuf := t.rxbuf ++ [b], result := some ⟨.ok, .nothing⟩ }

/-- R155: one RXSTEP leaves the same state and reports the same finding as the hand-driven sequence of R112. The count operands of
that sequence are 32-bit words (R76), so the equality is stated for buffers of fewer than 2^32 bytes (notes/assumptions/12.md). -/
def Obligations.RxstepEqualsHandDriven : Prop :=
  ∀ s t : State, s.rxbuf.length < 2 ^ 32 → exec .rxstep s = .next t →
    s.handDriven.1.rxbuf = t.rxbuf ∧ s.handDriven.1.outstanding = t.outstanding ∧ s.handDriven.1.q = t.q ∧
    t.result = some s.handDriven.2

/-- The layouts of the reply payloads, 43_receive.md section 3: the fields a consumer reads back from a get-status, a get-position and a
get-drive-status reply are those laid out there, big-endian, the two of R150 signed. The offsets the document does not state are the
spec's inference (notes/assumptions/16.md). -/
def Obligations.ReplyRecordsAreReadBack : Prop :=
  (∀ (m cs ds cm k : Byte) (P : Word) (V : BitVec 16),
    readReply .status ([m, 12, cs, ds, cm] ++ be P 4 ++ be (V.setWidth 32) 2 ++ [k]) = .status ⟨cs, ds, cm, P.toInt, V.toInt⟩) ∧
  (∀ (m es ss k : Byte) (A B : BitVec 16) (P : Word),
    readReply .position ([m, 13, es] ++ be (A.setWidth 32) 2 ++ be P 4 ++ [ss] ++ be (B.setWidth 32) 2 ++ [k]) =
      .position ⟨es, A, P, ss, B⟩) ∧
  ∀ (m ds k : Byte) (A B C D : BitVec 16),
    readReply .drive ([m, 12, ds] ++ be (A.setWidth 32) 2 ++ be (B.setWidth 32) 2 ++ be (C.setWidth 32) 2 ++ be (D.setWidth 32) 2
      ++ [k]) = .drive ⟨ds, A, B, C, D⟩
end

