-- ==== Sys2Proof/Laws/Operands.lean ====
section
/-! SUPPORT. What the operand forms answer: the command index, the reply table, the constraints of a configuration. -/

namespace Sys2Proof.Machine

theorem be_length (v : Word) (n : Nat) : (be v n).length = n := by
  induction n with
  | zero => rfl
  | succ n ih => simp [be, ih]

/-- Every command has an index, and the index gives it back. -/
@[simp] theorem ofIdx_cmdIdx (c : TxCommand) : TxCommand.ofIdx (cmdIdx (some c)) = some c := by cases c <;> rfl

theorem mem_all (c : TxCommand) : c ∈ TxCommand.all := by cases c <;> decide

@[simp] theorem kind_replyLength_ge_two (k : Kind) : 2 ≤ k.replyLength := by cases k <;> decide

theorem config_nodup_markers (c : Config) :
    [ackByte, nakByte, c.markReplyUnchanged, c.markReplyChanged, c.markCmd].Nodup := by
  have h := c.legal
  simp only [Params.legal, Bool.and_eq_true, decide_eq_true_eq] at h
  exact h.1.1.1

theorem config_nodup_opcodes (c : Config) : (TxCommand.all.map c.opc).Nodup := by
  have h := c.legal
  simp only [Params.legal, Bool.and_eq_true, decide_eq_true_eq] at h
  exact h.1.1.2

/-- Two commands with one opcode are one command (R9(c)). -/
theorem opc_inj (c : Config) {a b : TxCommand} (h : c.opc a = c.opc b) : a = b :=
  List.inj_on_of_nodup_map (config_nodup_opcodes c) (mem_all a) (mem_all b) h

end Sys2Proof.Machine
end

