-- ==== Sys2Proof/Laws/Frame.lean ====
section
/-! SUPPORT. Lemmas on the byte sum, the frames and the packet extractor. -/

namespace Sys2Proof.Machine

@[simp] theorem sum8_nil : sum8 [] = 0 := rfl

@[simp] theorem sum8_cons (b : Byte) (s : List Byte) : sum8 (b :: s) = b + sum8 s := rfl

theorem sum8_append (s t : List Byte) : sum8 (s ++ t) = sum8 s + sum8 t := by
  induction s with
  | nil => simp
  | cons b s ih => simp [ih, BitVec.add_assoc]

theorem sum8_withChecksum (body : List Byte) : sum8 (withChecksum body) = 0 := by
  simp [withChecksum, sum8_append]

theorem withChecksum_length (body : List Byte) : (withChecksum body).length = body.length + 1 := by simp [withChecksum]

theorem commandFrame_length (p : Params) (c : TxCommand) (arg : List Byte) :
    (commandFrame p c arg).length = 4 + arg.length := by
  simp [commandFrame, withChecksum_length]; omega

theorem commandFrame_cons (p : Params) (c : TxCommand) (arg : List Byte) :
    commandFrame p c arg =
      p.markCmd :: BitVec.ofNat 8 (4 + arg.length) :: p.opc c ::
        (arg ++ [-(sum8 ([p.markCmd, BitVec.ofNat 8 (4 + arg.length), p.opc c] ++ arg))]) := by
  simp [commandFrame, withChecksum]

theorem replyFrame_length (m : Byte) (rest : List Byte) : (replyFrame m rest).length = rest.length + 2 := rfl

@[simp] theorem memRead_zero (s : List Byte) (n : Nat) : memRead s 0 n = s.take n := rfl

/-- The outcomes of `extract`, each with what the buffer then looks like. -/
theorem extract_cases (p : Params) (B : List Byte) :
    (extract p B = .incomplete ∧ (B = [] ∨ ∃ b0 tl, B = b0 :: tl ∧ isReplyMarker p b0 = true ∧ isBare b0 = false ∧
        ∀ len body, tl = len :: body → B.length < len.toNat)) ∨
    (∃ n, extract p B = .discard n ∧ 1 ≤ n ∧ n ≤ B.length ∧ ∀ b ∈ B.take n, isRecognised p b = false) ∨
    (∃ b0 tl, B = b0 :: tl ∧ isBare b0 = true ∧ extract p B = .complete 1) ∨
    (∃ b0 len body, B = b0 :: len :: body ∧ isReplyMarker p b0 = true ∧ isBare b0 = false ∧ len.toNat ≤ B.length ∧
      extract p B = .complete len.toNat) := by
  match B with
  | [] => exact .inl ⟨rfl, .inl rfl⟩
  | b0 :: tl =>
    cases h : (b0 :: tl).findIdx? (isRecognised p) with
    | none =>
      refine .inr (.inl ⟨(b0 :: tl).length, by simp only [extract, h], by simp, le_rfl, fun b hb => ?_⟩)
      rw [List.take_length] at hb
      simpa using List.findIdx?_eq_none_iff.mp h b hb
    | some i =>
      obtain ⟨hlt, hi, hbefore⟩ := List.findIdx?_eq_some_iff_getElem.mp h
      cases i with
      | succ i =>
        refine .inr (.inl ⟨i + 1, by simp only [extract, h], by omega, by omega, fun b hb => ?_⟩)
        obtain ⟨j, hj, rfl⟩ := List.mem_iff_getElem.mp hb
        simp only [List.length_take] at hj
        rw [List.getElem_take]
        exact Bool.eq_false_iff.mpr (hbefore j (by omega))
      | zero =>
        cases hb : isBare b0 with
        | true => exact .inr (.inr (.inl ⟨b0, tl, rfl, hb, by simp only [extract, h, hb, if_true]⟩))
        | false =>
          have hm : isReplyMarker p b0 = true := by simpa [isRecognised, hb] using hi
          match tl with
          | [] => exact .inl ⟨by simp [extract, h, hb], .inr ⟨b0, [], rfl, hm, hb, by simp⟩⟩
          | len :: body =>
            by_cases hl : len.toNat ≤ (b0 :: len :: body).length
            · exact .inr (.inr (.inr ⟨b0, len, body, rfl, hm, hb, hl, by simp only [extract, h, hb, if_pos hl]; rfl⟩))
            · refine .inl ⟨by simp only [extract, h, hb, if_neg hl]; rfl, .inr ⟨b0, len :: body, rfl, hm, hb, ?_⟩⟩
              rintro _ _ ⟨rfl, rfl⟩
              omega

end Sys2Proof.Machine
end

