-- ==== Sys2Proof/Laws/BitString.lean ====
section
/-! SUPPORT. The one bit string of a frame, most significant first (R61), and the bytes it stands for. -/

namespace Sys2Proof.Machine

theorem ube_foldl (s : List Byte) (a : Nat) :
    s.foldl (fun acc b => 256 * acc + b.toNat) a = a * 256 ^ s.length + ube s := by
  induction s generalizing a with
  | nil => simp [ube]
  | cons b s ih =>
    simp only [ube, List.foldl_cons, List.length_cons]
    rw [ih, ih (256 * 0 + b.toNat), pow_succ]
    ring

theorem ube_cons (b : Byte) (s : List Byte) : ube (b :: s) = b.toNat * 256 ^ s.length + ube s := by
  simpa [ube] using ube_foldl s b.toNat

theorem ube_lt (s : List Byte) : ube s < 256 ^ s.length := by
  induction s with
  | nil => simp [ube]
  | cons b s ih =>
    rw [ube_cons, List.length_cons, pow_succ]
    nlinarith [b.isLt, Nat.pow_pos (n := s.length) (show 0 < 256 by decide)]

/-- The big-endian bytes of a word are its low bits. -/
theorem ube_be (W : Word) (n : Nat) : ube (be W n) = W.toNat % 256 ^ n := by
  induction n with
  | zero => simp [be, ube, Nat.mod_one]
  | succ n ih =>
    have hb : ((W >>> (8 * n)).setWidth 8).toNat = W.toNat / 256 ^ n % 256 := by
      simp [Nat.shiftRight_eq_div_pow, show (256 : Nat) ^ n = 2 ^ (8 * n) by rw [pow_mul]; norm_num]
    simp only [be, ube_cons, ih, be_length, hb]
    rw [pow_succ, Nat.mod_mul]
    ring

/-- The low bytes of a bit string do not depend on what stands above them. -/
theorem bitStringBytes_add (w k n : Nat) : bitStringBytes (k * 256 ^ n + w) n = bitStringBytes w n := by
  induction n generalizing k with
  | zero => rfl
  | succ n ih =>
    have h : k * 256 ^ (n + 1) + w = k * 256 * 256 ^ n + w := by rw [pow_succ]; ring
    simp only [bitStringBytes]
    rw [h, ih]
    congr 1
    apply BitVec.eq_of_toNat_eq
    simp only [BitVec.toNat_ofNat]
    rw [Nat.add_comm, Nat.add_mul_div_right _ _ (by positivity)]
    omega

/-- A bit string, cut into bytes, is the bytes it was written from. -/
theorem bitStringBytes_ube (s : List Byte) : bitStringBytes (ube s) s.length = s := by
  induction s with
  | nil => rfl
  | cons b s ih =>
    rw [ube_cons, List.length_cons, bitStringBytes, bitStringBytes_add, ih]
    congr 1
    rw [Nat.add_comm, Nat.add_mul_div_right _ _ (by positivity), Nat.div_eq_of_lt (ube_lt s)]
    simp

/-- The checksum of a body with its checksum byte appended is that byte. -/
theorem cksum_withChecksum (body : List Byte) : cksum (withChecksum body) = -(sum8 body) := by simp [cksum, withChecksum]

theorem append_toNat {v w : Nat} (x : BitVec v) (y : BitVec w) : (x ++ y).toNat = x.toNat * 2 ^ w + y.toNat := by
  rw [BitVec.toNat_append, ← Nat.shiftLeft_add_eq_or_of_lt y.isLt, Nat.shiftLeft_eq]

/-- R61: the bit string of a frame, of fields marker, length, command, argument and checksum from the top, is the number its bytes
write most significant first. -/
theorem frameBits_toNat (p : Params) (c : TxCommand) (W : Word) (n : Nat) :
    (frameBits p c W n).toNat = ube (encodeFrame p c W n) := by
  have hk : cksum (encodeFrame p c W n) = -(sum8 ([p.markCmd, BitVec.ofNat 8 (4 + n), p.opc c] ++ be W n)) := by
    rw [encodeFrame, commandFrame, cksum_withChecksum, be_length]
  have hp : (256 : Nat) ^ n = 2 ^ (8 * n) := by rw [pow_mul]; norm_num
  have ha : ∀ k : Byte, ube (be W n ++ [k]) = W.toNat % 2 ^ (8 * n) * 256 + k.toNat := by
    intro k
    rw [← hp, ← ube_be, ube, List.foldl_append]
    simp [ube, mul_comm]
  rw [encodeFrame, commandFrame_cons, be_length, ← hk, ube_cons, ube_cons, ube_cons, ha, frameBits]
  simp only [append_toNat, BitVec.toNat_setWidth, List.length_cons, List.length_append, be_length, List.length_nil, pow_add, hp, pow_one]
  ring

/-- R61, the other way: the frame is the bytes of its bit string. -/
theorem bitStringBytes_frameBits (p : Params) (c : TxCommand) (W : Word) (n : Nat) :
    bitStringBytes (frameBits p c W n).toNat (4 + n) = encodeFrame p c W n := by
  rw [frameBits_toNat]
  have h : (encodeFrame p c W n).length = 4 + n := by simp [encodeFrame, commandFrame_length, be_length]
  rw [← h]
  exact bitStringBytes_ube _

end Sys2Proof.Machine
end

