-- ==== Sys2Proof/Laws/State.lean ====
section
/-! SUPPORT. What each update of the state does to each field: one lemma per field per update. -/

namespace Sys2Proof.Machine

@[simp] theorem State.ret_cfg (s : State) (d : ResultData) : (s.ret d).cfg = s.cfg := rfl
@[simp] theorem State.ret_q (s : State) (d : ResultData) : (s.ret d).q = s.q := rfl
@[simp] theorem State.ret_outstanding (s : State) (d : ResultData) : (s.ret d).outstanding = s.outstanding := rfl
@[simp] theorem State.ret_rxbuf (s : State) (d : ResultData) : (s.ret d).rxbuf = s.rxbuf := rfl
@[simp] theorem State.ret_result (s : State) (d : ResultData) : (s.ret d).result = some ⟨.ok, d⟩ := rfl
@[simp] theorem State.ret_ops (s : State) (d : ResultData) : (s.ret d).ops = s.ops := rfl

@[simp] theorem State.raise_cfg (s : State) (rc : ResultCode) (d : ResultData) : (s.raise rc d).cfg = s.cfg := rfl
@[simp] theorem State.raise_q (s : State) (rc : ResultCode) (d : ResultData) : (s.raise rc d).q = s.q := rfl
@[simp] theorem State.raise_outstanding (s : State) (rc : ResultCode) (d : ResultData) : (s.raise rc d).outstanding = s.outstanding := rfl
@[simp] theorem State.raise_rxbuf (s : State) (rc : ResultCode) (d : ResultData) : (s.raise rc d).rxbuf = s.rxbuf := rfl
@[simp] theorem State.raise_result (s : State) (rc : ResultCode) (d : ResultData) : (s.raise rc d).result = some ⟨rc, d⟩ := rfl
@[simp] theorem State.raise_ops (s : State) (rc : ResultCode) (d : ResultData) : (s.raise rc d).ops = s.ops := rfl

@[simp] theorem State.badOperation_cfg (s : State) : (s.badOperation).cfg = s.cfg := rfl
@[simp] theorem State.badOperation_q (s : State) : (s.badOperation).q = s.q := rfl
@[simp] theorem State.badOperation_outstanding (s : State) : (s.badOperation).outstanding = s.outstanding := rfl
@[simp] theorem State.badOperation_rxbuf (s : State) : (s.badOperation).rxbuf = s.rxbuf := rfl
@[simp] theorem State.badOperation_result (s : State) : (s.badOperation).result = some ⟨.badOperation, .nothing⟩ := rfl
@[simp] theorem State.badOperation_ops (s : State) : (s.badOperation).ops = s.ops := rfl

@[simp] theorem State.rxAppend_cfg (s : State) (b : Byte) : (s.rxAppend b).cfg = s.cfg := rfl
@[simp] theorem State.rxAppend_q (s : State) (b : Byte) : (s.rxAppend b).q = s.q := rfl
@[simp] theorem State.rxAppend_outstanding (s : State) (b : Byte) : (s.rxAppend b).outstanding = s.outstanding := rfl
@[simp] theorem State.rxAppend_rxbuf (s : State) (b : Byte) : (s.rxAppend b).rxbuf = s.rxbuf ++ [b] := rfl
@[simp] theorem State.rxAppend_result (s : State) (b : Byte) : (s.rxAppend b).result = s.result := rfl
@[simp] theorem State.rxAppend_ops (s : State) (b : Byte) : (s.rxAppend b).ops = s.ops := rfl

@[simp] theorem State.rxRemove_cfg (s : State) (n : Nat) : (s.rxRemove n).cfg = s.cfg := rfl
@[simp] theorem State.rxRemove_q (s : State) (n : Nat) : (s.rxRemove n).q = s.q := rfl
@[simp] theorem State.rxRemove_outstanding (s : State) (n : Nat) : (s.rxRemove n).outstanding = s.outstanding := rfl
@[simp] theorem State.rxRemove_rxbuf (s : State) (n : Nat) : (s.rxRemove n).rxbuf = s.rxbuf.drop n := rfl
@[simp] theorem State.rxRemove_result (s : State) (n : Nat) : (s.rxRemove n).result = s.result := rfl
@[simp] theorem State.rxRemove_ops (s : State) (n : Nat) : (s.rxRemove n).ops = s.ops := rfl

@[simp] theorem State.clearOutstanding_cfg (s : State) : (s.clearOutstanding).cfg = s.cfg := rfl
@[simp] theorem State.clearOutstanding_q (s : State) : (s.clearOutstanding).q = s.q := rfl
@[simp] theorem State.clearOutstanding_outstanding (s : State) : (s.clearOutstanding).outstanding = none := rfl
@[simp] theorem State.clearOutstanding_rxbuf (s : State) : (s.clearOutstanding).rxbuf = s.rxbuf := rfl
@[simp] theorem State.clearOutstanding_result (s : State) : (s.clearOutstanding).result = s.result := rfl
@[simp] theorem State.clearOutstanding_ops (s : State) : (s.clearOutstanding).ops = s.ops := rfl

@[simp] theorem State.enqueueEntry_cfg (s : State) (e : Entry) : (s.enqueueEntry e).cfg = s.cfg := rfl
@[simp] theorem State.enqueueEntry_q (s : State) (e : Entry) : (s.enqueueEntry e).q = s.q ++ [e] := rfl
@[simp] theorem State.enqueueEntry_outstanding (s : State) (e : Entry) : (s.enqueueEntry e).outstanding = s.outstanding := rfl
@[simp] theorem State.enqueueEntry_rxbuf (s : State) (e : Entry) : (s.enqueueEntry e).rxbuf = s.rxbuf := rfl
@[simp] theorem State.enqueueEntry_result (s : State) (e : Entry) : (s.enqueueEntry e).result = s.result := rfl
@[simp] theorem State.enqueueEntry_ops (s : State) (e : Entry) : (s.enqueueEntry e).ops = s.ops := rfl

@[simp] theorem State.release_cfg (s : State) (e : Entry) : (s.release e).cfg = s.cfg := rfl
@[simp] theorem State.release_q (s : State) (e : Entry) : (s.release e).q = s.q.tail := rfl
@[simp] theorem State.release_outstanding (s : State) (e : Entry) : (s.release e).outstanding = some e.cmd := rfl
@[simp] theorem State.release_rxbuf (s : State) (e : Entry) : (s.release e).rxbuf = s.rxbuf := rfl
@[simp] theorem State.release_result (s : State) (e : Entry) : (s.release e).result = some ⟨.ok, .released e.cmd e.bytes⟩ := rfl
@[simp] theorem State.release_ops (s : State) (e : Entry) : (s.release e).ops = s.ops := rfl

end Sys2Proof.Machine
end

