-- ==== Sys2Proof/Laws/Ops.lean ====
section
/-! SUPPORT. For each shared operation, all that it can answer. -/

namespace Sys2Proof.Machine

/-- The arbiter blocks, finds the queue empty, or releases. -/
theorem State.transmit_cases (s : State) (e : Entry) :
    (∃ c, s.outstanding = some c ∧ s.transmit e = s.raise .blocked (.command (some c))) ∨
    (s.outstanding = none ∧ s.q = [] ∧ s.transmit e = s.raise .empty .nothing) ∨
    (s.outstanding = none ∧ s.q ≠ [] ∧ s.transmit e = s.release e) := by
  unfold State.transmit
  split
  next c h => exact .inl ⟨c, h, rfl⟩
  next h => split <;> simp_all

/-- The operand checks refuse the command, refuse the length, or pass. -/
theorem State.withCommand_cases (s : State) (cmd : BitVec 4) (alen : BitVec 3) (k : TxCommand → State) :
    (TxCommand.ofIdx cmd = none ∧ s.withCommand cmd alen k = s.raise .invalidArgument (.operand (.cmd cmd))) ∨
    (∃ c, TxCommand.ofIdx cmd = some c ∧ 4 < alen.toNat ∧
      s.withCommand cmd alen k = s.raise .invalidArgument (.operand (.alen alen))) ∨
    (∃ c, TxCommand.ofIdx cmd = some c ∧ alen.toNat ≤ 4 ∧ s.withCommand cmd alen k = k c) := by
  unfold State.withCommand
  split
  next h => exact .inl ⟨h, rfl⟩
  next c h =>
    by_cases hl : 4 < alen.toNat
    · exact .inr (.inl ⟨c, h, hl, if_pos hl⟩)
    · exact .inr (.inr ⟨c, h, by omega, if_neg hl⟩)

/-- The range checks refuse the count, find it too short, or pass. -/
theorem State.withPrefix_cases (s : State) (n : Word) (k : List Byte → ResultData) :
    (s.rxbuf.length < n.toNat ∧ s.withPrefix n k = s.raise .invalidArgument (.operand (.value n))) ∨
    (n.toNat ≤ s.rxbuf.length ∧ n.toNat < 2 ∧ s.withPrefix n k = s.raise .framingError (.length n.toNat)) ∨
    (n.toNat ≤ s.rxbuf.length ∧ 2 ≤ n.toNat ∧ s.withPrefix n k = s.ret (k (s.rxbuf.take n.toNat))) := by
  unfold State.withPrefix
  split_ifs with h₁ h₂
  · exact .inl ⟨h₁, rfl⟩
  · exact .inr (.inl ⟨by omega, h₂, rfl⟩)
  · exact .inr (.inr ⟨by omega, by omega, rfl⟩)

/-- A reply frame is removed, and its checksum is wrong, its length unexpected, or it is decoded. -/
theorem State.acceptReply_cases (s : State) (f : List Byte) :
    (valid f = false ∧ s.acceptReply f = (s.rxRemove f.length).raise .checksumError (.frame f)) ∨
    (valid f = true ∧ expLen s.outstanding ≠ some f.length ∧
      s.acceptReply f = (s.rxRemove f.length).raise .unexpectedReplyLength (.reply f.length s.outstanding f)) ∨
    (∃ k, valid f = true ∧ kindOf s.outstanding = some k ∧ k.replyLength = f.length ∧
      s.acceptReply f = (s.rxRemove f.length).clearOutstanding.ret (.event (.decoded k f))) := by
  unfold State.acceptReply
  cases hv : valid f with
  | false => exact .inl ⟨rfl, by simp⟩
  | true =>
    cases hk : kindOf s.outstanding with
    | none => exact .inr (.inl ⟨rfl, by simp [expLen, hk], by simp⟩)
    | some k =>
      by_cases hl : k.replyLength = f.length
      · exact .inr (.inr ⟨k, rfl, rfl, hl, by simp [hl]⟩)
      · exact .inr (.inl ⟨rfl, by simp [expLen, hk, hl], by simp [hl]⟩)

/-- One turn of the receive pipeline: the item at the head of the buffer and what is done with it. -/
theorem State.receive_cases (s : State) :
    (extract s.cfg.toParams s.rxbuf = .incomplete ∧ s.receive = s.ret (.event .wait)) ∨
    (∃ n, extract s.cfg.toParams s.rxbuf = .discard n ∧ s.receive = (s.rxRemove n).ret (.event (.discarded n))) ∨
    (∃ tl, s.rxbuf = ackByte :: tl ∧ s.receive = s.acceptAck) ∨
    (∃ tl, s.rxbuf = nakByte :: tl ∧ s.receive = s.acceptNak) ∨
    (∃ m len body, s.rxbuf = m :: len :: body ∧ isReplyMarker s.cfg.toParams m = true ∧ isBare m = false ∧
      len.toNat ≤ s.rxbuf.length ∧ len.toNat < 2 ∧ s.receive = s.rejectShort len.toNat) ∨
    (∃ m len body, s.rxbuf = m :: len :: body ∧ isReplyMarker s.cfg.toParams m = true ∧ isBare m = false ∧
      len.toNat ≤ s.rxbuf.length ∧ 2 ≤ len.toNat ∧ s.receive = s.acceptReply (s.rxbuf.take len.toNat)) := by
  rcases extract_cases s.cfg.toParams s.rxbuf with ⟨h, -⟩ | ⟨n, h, -⟩ | ⟨b0, tl, hB, hb, h⟩ | ⟨m, len, body, hB, hm, hb, hl, h⟩
  · exact .inl ⟨h, by simp only [State.receive, h]⟩
  · exact .inr (.inl ⟨n, h, by simp only [State.receive, h]⟩)
  · simp only [State.receive, h]
    simp only [isBare, Bool.or_eq_true, beq_iff_eq] at hb
    rcases hb with rfl | rfl
    · exact .inr (.inr (.inl ⟨tl, hB, by simp [hB]⟩))
    · exact .inr (.inr (.inr (.inl ⟨tl, hB, by simp [hB, ackByte, nakByte]⟩)))
  · have hb' := hb
    simp only [isBare, Bool.or_eq_false_iff, beq_eq_false_iff_ne] at hb'
    have ha : s.rxbuf.head? ≠ some ackByte := by simp [hB, hb'.1]
    have hn : s.rxbuf.head? ≠ some nakByte := by simp [hB, hb'.2]
    by_cases h2 : len.toNat < 2
    · refine .inr (.inr (.inr (.inr (.inl ⟨m, len, body, hB, hm, hb, hl, h2, ?_⟩))))
      simp only [State.receive, h, if_neg ha, if_neg hn, if_pos h2]
    · refine .inr (.inr (.inr (.inr (.inr ⟨m, len, body, hB, hm, hb, hl, by omega, ?_⟩))))
      simp only [State.receive, h, if_neg ha, if_neg hn, if_neg h2, memRead_zero]

end Sys2Proof.Machine
end

