-- ==== Sys2Proof/Laws/Step.lean ====
section
/-! SUPPORT. What an instruction and a step can do to the queue and the tracker, said once. -/

namespace Sys2Proof.Machine

/-- One turn of the receive pipeline leaves the queue; it frees the tracker exactly where it met an answer. -/
theorem State.receive_tracker (s : State) :
    s.receive.q = s.q ∧ s.receive.outstanding = if isAnswer s.receive.result = true then none else s.outstanding := by
  rcases s.receive_cases with ⟨_, h⟩ | ⟨n, _, h⟩ | ⟨tl, _, h⟩ | ⟨tl, _, h⟩ | ⟨m, len, body, _, _, _, _, _, h⟩ | ⟨m, len, body, _, _, _, _, _, h⟩
  · simp [h, isAnswer, ResultData.isAnswer]
  · simp [h, isAnswer, ResultData.isAnswer]
  · simp [h, State.acceptAck, isAnswer, ResultData.isAnswer]
  · simp [h, State.acceptNak, isAnswer]
  · simp [h, State.rejectShort, isAnswer]
  · rcases s.acceptReply_cases (s.rxbuf.take len.toNat) with ⟨_, h'⟩ | ⟨_, _, h'⟩ | ⟨k, _, _, _, h'⟩ <;>
      simp [h, h', isAnswer, ResultData.isAnswer]

/-- All that an instruction can do to the queue and the tracker. -/
def QueueEffect (i : Instr) (s t : State) : Prop :=
  (t.q = s.q ∧ (t.outstanding = s.outstanding ∨ t.outstanding = none)) ∨
  (t.q = [] ∧ t.outstanding = none) ∨
  (s.outstanding = none ∧ ∃ e, s.q = e :: t.q) ∨
  (isEnqueue i = true ∧ t.result = some ⟨.ok, .nothing⟩ ∧ t.outstanding = s.outstanding ∧ ∃ e, t.q = s.q ++ [e])

theorem queueEffect_of_same (i : Instr) {s t : State} (hq : t.q = s.q) (ho : t.outstanding = s.outstanding) : QueueEffect i s t :=
  .inl ⟨hq, .inl ho⟩

theorem queueEffect_of_freed (i : Instr) {s t : State} (hq : t.q = s.q) (ho : t.outstanding = none) : QueueEffect i s t :=
  .inl ⟨hq, .inr ho⟩

theorem queueEffect_acceptReply (i : Instr) (s : State) (f : List Byte) : QueueEffect i s (s.acceptReply f) := by
  rcases s.acceptReply_cases f with ⟨_, h⟩ | ⟨_, _, h⟩ | ⟨k, _, _, _, h⟩ <;> rw [h]
  · exact queueEffect_of_same i rfl rfl
  · exact queueEffect_of_same i rfl rfl
  · exact queueEffect_of_freed i rfl rfl

theorem queueEffect_transmit (i : Instr) (s : State) (e : Entry) : QueueEffect i s (s.transmit e) := by
  rcases s.transmit_cases e with ⟨c, _, h⟩ | ⟨_, _, h⟩ | ⟨ho, hq, h⟩ <;> rw [h]
  · exact queueEffect_of_same i rfl rfl
  · exact queueEffect_of_same i rfl rfl
  · obtain ⟨a, q, hq⟩ := List.exists_cons_of_ne_nil hq
    exact .inr (.inr (.inl ⟨ho, a, by simp [hq]⟩))

theorem queueEffect_withPrefix (i : Instr) (s : State) (n : Word) (k : List Byte → ResultData) : QueueEffect i s (s.withPrefix n k) := by
  rcases s.withPrefix_cases n k with ⟨_, h⟩ | ⟨_, _, h⟩ | ⟨_, _, h⟩ <;> rw [h] <;> exact queueEffect_of_same i rfl rfl

theorem queueEffect_withCommand (i : Instr) (s : State) (cmd : BitVec 4) (alen : BitVec 3) (k : TxCommand → State)
    (hk : ∀ c, QueueEffect i s (k c)) : QueueEffect i s (s.withCommand cmd alen k) := by
  rcases s.withCommand_cases cmd alen k with ⟨_, h⟩ | ⟨c, _, _, h⟩ | ⟨c, _, _, h⟩ <;> rw [h]
  · exact queueEffect_of_same i rfl rfl
  · exact queueEffect_of_same i rfl rfl
  · exact hk c

/-- Every instruction answers a next state, with one of these effects on the queue and the tracker. -/
theorem exec_queueEffect (i : Instr) (s : State) : ∃ t, exec i s = .next t ∧ QueueEffect i s t := by
  cases i
  case reset => exact ⟨_, rfl, .inr (.inl ⟨rfl, rfl⟩)⟩
  case clearq => exact ⟨_, rfl, .inr (.inl ⟨rfl, rfl⟩)⟩
  case encode cmd alen value => exact ⟨_, rfl, queueEffect_withCommand _ _ _ _ _ fun _ => queueEffect_of_same _ rfl rfl⟩
  case enqueue cmd alen value =>
    refine ⟨_, rfl, queueEffect_withCommand _ _ _ _ _ fun c => ?_⟩
    split_ifs
    · exact queueEffect_of_same _ rfl rfl
    · exact queueEffect_of_same _ rfl rfl
    · exact .inr (.inr (.inr ⟨rfl, rfl, rfl, _, rfl⟩))
  case popnext =>
    refine ⟨_, rfl, ?_⟩
    split
    · exact queueEffect_of_same _ rfl rfl
    · exact queueEffect_of_same _ rfl rfl
    next e tl ho hq => exact .inr (.inr (.inl ⟨ho, e, by simp [hq]⟩))
  case rxpush b => exact ⟨_, rfl, by split_ifs <;> exact queueEffect_of_same _ rfl rfl⟩
  case rxdrop n => exact ⟨_, rfl, by split_ifs <;> exact queueEffect_of_same _ rfl rfl⟩
  case checksum n => exact ⟨_, rfl, queueEffect_withPrefix _ _ _ _⟩
  case validate n => exact ⟨_, rfl, queueEffect_withPrefix _ _ _ _⟩
  case rxstep =>
    refine ⟨_, rfl, .inl ⟨s.receive_tracker.1, ?_⟩⟩
    rw [s.receive_tracker.2]
    split_ifs <;> simp
  case replydone => exact ⟨_, rfl, queueEffect_of_freed _ rfl rfl⟩
  case ack => exact ⟨_, rfl, queueEffect_of_freed _ rfl rfl⟩
  case nak => exact ⟨_, rfl, queueEffect_of_freed _ rfl rfl⟩
  case replyUnchanged rest => exact ⟨_, rfl, queueEffect_acceptReply _ _ _⟩
  case replyChanged rest => exact ⟨_, rfl, queueEffect_acceptReply _ _ _⟩
  case nop | isidle | extract | rxflush | reservedOp15 => exact ⟨_, rfl, queueEffect_of_same _ rfl rfl⟩
  all_goals exact ⟨_, rfl, queueEffect_transmit _ _ _⟩

/-- Where the next word decodes to `i`, the state after the step is the one `exec` gives from the state without that word. -/
theorem State.exec_of_nextOp {s : State} {i : Instr} (h : s.nextOp = some i) : exec i { s with ops := s.ops.tail } = .next s.next := by
  obtain ⟨t, ht, -⟩ := exec_queueEffect i { s with ops := s.ops.tail }
  unfold State.nextOp at h
  split at h
  · cases h
  next w rest hw =>
    cases hd : decodeOp w with
    | error e => simp [hd, Except.toOption] at h
    | ok j =>
      obtain rfl : j = i := by simpa [hd, Except.toOption] using h
      have hs : step s = .next t := by
        simp only [step, hw, hd]
        simpa [hw] using ht
      rw [ht]
      simp [State.next, hs]

/-- A step that runs no operation leaves the queue and the tracker. -/
theorem State.next_of_nextOp_none {s : State} (h : s.nextOp = none) : s.next.q = s.q ∧ s.next.outstanding = s.outstanding := by
  unfold State.nextOp at h
  split at h
  next hw => simp [State.next, step, hw]
  next w rest hw =>
    cases hd : decodeOp w with
    | error e => simp [State.next, step, hw, hd]
    | ok j => simp [hd, Except.toOption] at h

/-- A step that accepts no entry never lengthens the queue; and it leaves a free tracker free, or releases a frame. -/
theorem State.next_of_accepted_nil {s : State} (h : s.accepted = []) :
    s.next.q.length ≤ s.q.length ∧ (s.outstanding = none → s.next.outstanding = none ∨ s.next.q.length < s.q.length) := by
  cases hi : s.nextOp with
  | none => simp [State.next_of_nextOp_none hi]
  | some i =>
    obtain ⟨t, ht, he⟩ := exec_queueEffect i { s with ops := s.ops.tail }
    obtain rfl : s.next = t := by simpa [ht] using (State.exec_of_nextOp hi).symm
    rcases he with ⟨hq, ho⟩ | ⟨hq, ho⟩ | ⟨ho, e, hq⟩ | ⟨hi', hr, ho, e, hq⟩
    · refine ⟨by simp [hq], fun h0 => .inl ?_⟩
      rcases ho with ho | ho
      · simpa [h0] using ho
      · exact ho
    · simp [hq, ho]
    · have hq : s.q = e :: s.next.q := hq
      simp [hq]
    · have hq : s.next.q = s.q ++ [e] := hq
      simp [State.accepted, hi, hi', hr, hq] at h

/-- A step that settles the outstanding command frees the tracker. -/
theorem State.next_of_settled {s : State} (h : s.answeredByDevice = true ∨ s.releasedByHost = true) : s.next.outstanding = none := by
  simp only [State.answeredByDevice, State.releasedByHost, Bool.or_eq_true, Bool.and_eq_true, beq_iff_eq] at h
  rcases h with ⟨hi, ha⟩ | hi | hi
  · have hx := State.exec_of_nextOp hi
    simp only [exec, execRxstep, Host.Outcome.next.injEq] at hx
    rw [← hx] at ha ⊢
    simp [State.receive_tracker, ha]
  · have hx := State.exec_of_nextOp hi
    simp only [exec, execReplydone, Host.Outcome.next.injEq] at hx
    rw [← hx]; rfl
  · have hx := State.exec_of_nextOp hi
    simp only [exec, execClearq, Host.Outcome.next.injEq] at hx
    rw [← hx]; rfl

/-- A POPNEXT with a free tracker and a frame queued shortens the queue. -/
theorem State.next_of_popnext {s : State} (hi : s.nextOp = some .popnext) (ho : s.outstanding = none) (hq : s.q ≠ []) :
    s.next.q.length < s.q.length := by
  obtain ⟨e, tl, he⟩ := List.exists_cons_of_ne_nil hq
  have hx := State.exec_of_nextOp hi
  simp only [exec, execPopnext, ho, he, Host.Outcome.next.injEq] at hx
  simp [← hx, he]

end Sys2Proof.Machine
end

