-- ==== Sys2Proof/Laws/Liveness.lean ====
section
/-! SUPPORT. An idle state is reached under the fairness hypotheses of R189 (R197). -/

namespace Sys2Proof.Machine

/-- The state a host's next word is issued in is the state the step before left, but for the word. -/
theorem State.under_succ (s : State) (host : Nat → OpWord) (k : Nat) :
    (s.under host (k + 1)).q = (s.under host k).next.q ∧ (s.under host (k + 1)).outstanding = (s.under host k).next.outstanding :=
  ⟨rfl, rfl⟩

/-- While nothing is accepted, the queue never grows. -/
theorem under_q_length_le (s : State) (host : Nat → OpWord) {n : Nat} (hn : ∀ k, n ≤ k → (s.under host k).accepted = [])
    {j k : Nat} (hj : n ≤ j) (hk : j ≤ k) : (s.under host k).q.length ≤ (s.under host j).q.length := by
  induction k, hk using Nat.le_induction with
  | base => exact le_rfl
  | succ k hjk ih => exact (State.next_of_accepted_nil (hn k (hj.trans hjk))).1.trans ih

/-- While nothing is accepted, a free tracker stays free or the queue has become shorter. -/
theorem under_free (s : State) (host : Nat → OpWord) {n : Nat} (hn : ∀ k, n ≤ k → (s.under host k).accepted = [])
    {j k : Nat} (hj : n ≤ j) (hk : j ≤ k) (ho : (s.under host j).outstanding = none) :
    (s.under host k).outstanding = none ∨ (s.under host k).q.length < (s.under host j).q.length := by
  induction k, hk using Nat.le_induction with
  | base => exact .inl ho
  | succ k hjk ih =>
    have h := State.next_of_accepted_nil (hn k (hj.trans hjk))
    have hle := under_q_length_le s host hn hj hjk
    rcases ih with ih | ih
    · rcases h.2 ih with h | h
      · exact .inl h
      · exact .inr (h.trans_le hle)
    · exact .inr (h.1.trans_lt ih)

/-- R197: for every host and every start, if every outstanding command is settled (R189), the host keeps pumping and its requests end,
then after any step an idle state is still to come. -/
theorem idle_reached (s : State) (host : Nat → OpWord) (hs : EveryCommandSettled (s.under host))
    (hp : HostKeepsPumping (s.under host)) (he : HostEndsRequests (s.under host)) :
    ∀ k, ∃ j, k ≤ j ∧ (s.under host j).stIdle = 1 := by
  obtain ⟨n, hn⟩ := he
  suffices h : ∀ m k, n ≤ k → (s.under host k).q.length = m → ∃ j, k ≤ j ∧ (s.under host j).stIdle = 1 by
    intro k
    obtain ⟨j, hj, hi⟩ := h _ (max n k) (le_max_left _ _) rfl
    exact ⟨j, (le_max_right _ _).trans hj, hi⟩
  intro m
  induction m using Nat.strong_induction_on with
  | _ m ih =>
    intro k hk hm
    -- it suffices to find a later state that is idle or has a shorter queue
    suffices h : ∃ j, k ≤ j ∧ ((s.under host j).stIdle = 1 ∨ (s.under host j).q.length < m) by
      obtain ⟨j, hj, h | h⟩ := h
      · exact ⟨j, hj, h⟩
      · obtain ⟨j', hj', h'⟩ := ih _ h j (hk.trans hj) rfl
        exact ⟨j', hj.trans hj', h'⟩
    -- the tracker becomes free
    obtain ⟨a, ha, hfree⟩ : ∃ a, k ≤ a ∧ (s.under host a).outstanding = none := by
      by_cases ho : (s.under host k).outstanding = none
      · exact ⟨k, le_rfl, ho⟩
      · obtain ⟨j, hj, h⟩ := hs k ho
        exact ⟨j + 1, hj.trans (Nat.le_succ j), State.next_of_settled h⟩
    have hla := under_q_length_le s host hn hk ha
    by_cases hq : (s.under host a).q = []
    · exact ⟨a, ha, .inl (by simp [State.stIdle, State.idle, hq, hfree])⟩
    -- a POPNEXT follows
    obtain ⟨b, hb, hpop⟩ := hp a hfree hq
    have hlb := under_q_length_le s host hn (hk.trans ha) hb
    rcases under_free s host hn (hk.trans ha) hb hfree with hf | hlt
    · by_cases hqb : (s.under host b).q = []
      · exact ⟨b, ha.trans hb, .inl (by simp [State.stIdle, State.idle, hqb, hf])⟩
      · exact ⟨b + 1, (ha.trans hb).trans (Nat.le_succ b),
          .inr ((State.next_of_popnext hpop hf hqb).trans_le (hlb.trans (hla.trans hm.le)))⟩
    · exact ⟨b, ha.trans hb, .inr (hlt.trans_le (hla.trans hm.le))⟩

end Sys2Proof.Machine
end

