-- ==== Sys2Proof/Laws/PerInstr.lean ====
section
/-! SUPPORT. Laws of the instructions as syntax, one lemma per constructor: the encoded instruction has the fixed bits of its row of
spec/opcode_table.json. -/

namespace Sys2Proof.Laws

/-- A row of the opcode table: its match and mask, or the bytes it fixes. -/
inductive Row where
  | hostop (fixedBits mask : OpWord)
  | cmdf (c : TxCommand)
  | bare (b : Byte)
  | repf (marker : Byte)

/-- The mask of the fifteen operations: the fields `OP` and `RSV` (R75). -/
def opMask : OpWord := 0xF0F800000000

/-- The row of each instruction. -/
def rowOf (p : Params) : Instr → Row
  | .nop => .hostop 0x000000000000 opMask
  | .reset => .hostop 0x100000000000 opMask
  | .encode _ _ _ => .hostop 0x200000000000 opMask
  | .enqueue _ _ _ => .hostop 0x300000000000 opMask
  | .popnext => .hostop 0x400000000000 opMask
  | .replydone => .hostop 0x500000000000 opMask
  | .isidle => .hostop 0x600000000000 opMask
  | .clearq => .hostop 0x700000000000 opMask
  | .rxpush _ => .hostop 0x800000000000 opMask
  | .extract => .hostop 0x900000000000 opMask
  | .rxdrop _ => .hostop 0xA00000000000 opMask
  | .checksum _ => .hostop 0xB00000000000 opMask
  | .validate _ => .hostop 0xC00000000000 opMask
  | .rxstep => .hostop 0xD00000000000 opMask
  | .rxflush => .hostop 0xE00000000000 opMask
  | .reservedOp15 _ => .hostop 0xF00000000000 0xF00000000000
  | .clearError _ => .cmdf .clearError
  | .setControlMode _ => .cmdf .setControlMode
  | .getActuatorInfo _ => .cmdf .getActuatorInfo
  | .clearShaftPosition _ => .cmdf .clearShaftPosition
  | .setWatchdog _ => .cmdf .setWatchdog
  | .setTrapezoidalVelocity _ => .cmdf .setTrapezoidalVelocity
  | .setTrapezoidalPosition _ => .cmdf .setTrapezoidalPosition
  | .getPosition _ => .cmdf .getPosition
  | .getStatus _ => .cmdf .getStatus
  | .getDriveStatus _ => .cmdf .getDriveStatus
  | .setVelocity _ => .cmdf .setVelocity
  | .setShaftPosition _ => .cmdf .setShaftPosition
  | .ack => .bare 0x06
  | .nak => .bare 0x15
  | .replyUnchanged _ => .repf p.markReplyUnchanged
  | .replyChanged _ => .repf p.markReplyChanged

/-- A packet has the fixed bits of a row: the match under the mask, or the fixed bytes and a length byte that is the length. -/
def hasShape (p : Params) : Row → Packet → Prop
  | .hostop fixedBits mask, .op w => w &&& mask = fixedBits
  | .cmdf c, .queue bs =>
    bs[0]? = some p.markCmd ∧ bs[1]? = some (BitVec.ofNat 8 bs.length) ∧ bs[2]? = some (p.opc c) ∧ 4 ≤ bs.length ∧ bs.length ≤ 8
  | .bare b, .line bs => bs = [b]
  | .repf m, .line bs =>
    bs[0]? = some m ∧ bs[1]? = some (BitVec.ofNat 8 bs.length) ∧ 2 ≤ bs.length ∧ bs.length ≤ 255
  | _, _ => False

/-- A well-formed instruction's packet has the fixed bits of its row. -/
def PacketShape.Statement (i : Instr) : Prop := ∀ p : Params, i.wf = true → hasShape p (rowOf p i) (encode p i)

/-- An operation word under the mask of `OP` and `RSV` is its select code. -/
theorem opWord_and_opMask (op cmd : BitVec 4) (alen : BitVec 3) (value : Word) :
    opWord op cmd alen value &&& opMask = op ++ 0#44 := by
  have hmask : opMask = (BitVec.allOnes 4 ++ 0#4 ++ BitVec.allOnes 5 ++ 0#3 ++ 0#32 : BitVec (4 + 4 + 5 + 3 + 32)) := by decide
  have hz : (op ++ 0#44 : BitVec 48) = (op ++ 0#4 ++ 0#5 ++ 0#3 ++ 0#32 : BitVec (4 + 4 + 5 + 3 + 32)) := by
    revert op; decide
  rw [hmask, hz]
  change (op ++ cmd ++ 0#5 ++ alen ++ value : BitVec (4 + 4 + 5 + 3 + 32)) &&& _ = _
  rw [BitVec.and_append, BitVec.and_append, BitVec.and_append, BitVec.and_append]
  simp only [BitVec.and_allOnes, BitVec.and_zero]

/-- The shape of every row of format `CMDF`. -/
theorem commandFrame_hasShape (p : Params) (c : TxCommand) (arg : List Byte) (h : argWf arg = true) :
    hasShape p (.cmdf c) (.queue (Machine.commandFrame p c arg)) := by
  simp only [argWf, decide_eq_true_eq] at h
  simp only [hasShape, Machine.commandFrame, Machine.withChecksum]
  simp
  exact ⟨by congr 1; omega, by omega⟩

/-- The shape of every row of format `REPF`. -/
theorem replyFrame_hasShape (p : Params) (m : Byte) (rest : List Byte) (h : replyWf rest = true) :
    hasShape p (.repf m) (.line (Machine.replyFrame m rest)) := by
  simp only [replyWf, decide_eq_true_eq] at h
  simp only [hasShape, Machine.replyFrame]
  simp
  omega

/-- The fixed bits of the reserved select code. -/
theorem reserved_and_mask (rest : BitVec 44) : ((15#4 ++ rest : BitVec 48) &&& 0xF00000000000) = 0xF00000000000 := by
  have hmask : (0xF00000000000 : BitVec 48) = (BitVec.allOnes 4 ++ 0#44 : BitVec (4 + 44)) := by decide
  rw [hmask]
  change (15#4 ++ rest : BitVec (4 + 44)) &&& _ = _
  rw [BitVec.and_append, BitVec.and_allOnes, BitVec.and_zero]
  rfl

theorem PacketShape.nop : PacketShape.Statement .nop := fun _ _ => opWord_and_opMask _ _ _ _
theorem PacketShape.reset : PacketShape.Statement .reset := fun _ _ => opWord_and_opMask _ _ _ _
theorem PacketShape.encode (cmd : BitVec 4) (alen : BitVec 3) (value : Word) : PacketShape.Statement (.encode cmd alen value) := fun _ _ => opWord_and_opMask _ _ _ _
theorem PacketShape.enqueue (cmd : BitVec 4) (alen : BitVec 3) (value : Word) : PacketShape.Statement (.enqueue cmd alen value) := fun _ _ => opWord_and_opMask _ _ _ _
theorem PacketShape.popnext : PacketShape.Statement .popnext := fun _ _ => opWord_and_opMask _ _ _ _
theorem PacketShape.replydone : PacketShape.Statement .replydone := fun _ _ => opWord_and_opMask _ _ _ _
theorem PacketShape.isidle : PacketShape.Statement .isidle := fun _ _ => opWord_and_opMask _ _ _ _
theorem PacketShape.clearq : PacketShape.Statement .clearq := fun _ _ => opWord_and_opMask _ _ _ _
theorem PacketShape.rxpush (b : Byte) : PacketShape.Statement (.rxpush b) := fun _ _ => opWord_and_opMask _ _ _ _
theorem PacketShape.extract : PacketShape.Statement .extract := fun _ _ => opWord_and_opMask _ _ _ _
theorem PacketShape.rxdrop (n : Word) : PacketShape.Statement (.rxdrop n) := fun _ _ => opWord_and_opMask _ _ _ _
theorem PacketShape.checksum (n : Word) : PacketShape.Statement (.checksum n) := fun _ _ => opWord_and_opMask _ _ _ _
theorem PacketShape.validate (n : Word) : PacketShape.Statement (.validate n) := fun _ _ => opWord_and_opMask _ _ _ _
theorem PacketShape.rxstep : PacketShape.Statement .rxstep := fun _ _ => opWord_and_opMask _ _ _ _
theorem PacketShape.rxflush : PacketShape.Statement .rxflush := fun _ _ => opWord_and_opMask _ _ _ _
theorem PacketShape.reservedOp15 (rest : BitVec 44) : PacketShape.Statement (.reservedOp15 rest) := fun _ _ => reserved_and_mask rest
theorem PacketShape.clearError (arg : List Byte) : PacketShape.Statement (.clearError arg) := fun p h => commandFrame_hasShape p _ arg h
theorem PacketShape.setControlMode (arg : List Byte) : PacketShape.Statement (.setControlMode arg) := fun p h => commandFrame_hasShape p _ arg h
theorem PacketShape.getActuatorInfo (arg : List Byte) : PacketShape.Statement (.getActuatorInfo arg) := fun p h => commandFrame_hasShape p _ arg h
theorem PacketShape.clearShaftPosition (arg : List Byte) : PacketShape.Statement (.clearShaftPosition arg) := fun p h => commandFrame_hasShape p _ arg h
theorem PacketShape.setWatchdog (arg : List Byte) : PacketShape.Statement (.setWatchdog arg) := fun p h => commandFrame_hasShape p _ arg h
theorem PacketShape.setTrapezoidalVelocity (arg : List Byte) : PacketShape.Statement (.setTrapezoidalVelocity arg) := fun p h => commandFrame_hasShape p _ arg h
theorem PacketShape.setTrapezoidalPosition (arg : List Byte) : PacketShape.Statement (.setTrapezoidalPosition arg) := fun p h => commandFrame_hasShape p _ arg h
theorem PacketShape.getPosition (arg : List Byte) : PacketShape.Statement (.getPosition arg) := fun p h => commandFrame_hasShape p _ arg h
theorem PacketShape.getStatus (arg : List Byte) : PacketShape.Statement (.getStatus arg) := fun p h => commandFrame_hasShape p _ arg h
theorem PacketShape.getDriveStatus (arg : List Byte) : PacketShape.Statement (.getDriveStatus arg) := fun p h => commandFrame_hasShape p _ arg h
theorem PacketShape.setVelocity (arg : List Byte) : PacketShape.Statement (.setVelocity arg) := fun p h => commandFrame_hasShape p _ arg h
theorem PacketShape.setShaftPosition (arg : List Byte) : PacketShape.Statement (.setShaftPosition arg) := fun p h => commandFrame_hasShape p _ arg h
theorem PacketShape.ack : PacketShape.Statement .ack := fun _ _ => rfl
theorem PacketShape.nak : PacketShape.Statement .nak := fun _ _ => rfl
theorem PacketShape.replyUnchanged (rest : List Byte) : PacketShape.Statement (.replyUnchanged rest) := fun p h => replyFrame_hasShape p _ rest h
theorem PacketShape.replyChanged (rest : List Byte) : PacketShape.Statement (.replyChanged rest) := fun p h => replyFrame_hasShape p _ rest h

end Sys2Proof.Laws
end

