-- ==== Sys2Proof/Tests/Slice0.lean ====
section
/-! SUPPORT. The model's own tests. Expected results are those of 95_test_vectors.md (the vector's id is named) or hand calculation
from the rule named. -/

namespace Sys2Proof.Tests

open Sys2Proof Sys2Proof.Machine

/-- The state after reset under TESTCFG. -/
def base : State := { State.reset with cfg := Config.testcfg }

/-- `base` with something in its queue, its tracker and its receive buffer. -/
def st (q : List Entry) (o : Command) (rx : List Byte) : State := { base with q := q, outstanding := o, rxbuf := rx }

/-- TESTCFG with unbounded capacities (R8). -/
def unboundedCfg : Config := { Config.testcfg with qdepth := none, rxbufCap := none, legal := by decide }

/-- The get-status frame of V-E5. -/
def statusFrame : List Byte := [0x43, 0x04, 0x29, 0x90]

/-- The reply of V-C6. -/
def reply12 : List Byte := [0x55, 0x0C, 0, 0, 1, 0, 0, 0, 0, 0, 0, 0x9E]

/-- The result of an outcome's next state. -/
def resultOf (o : Host.Outcome State Fault Refusal) : Option Result :=
  match o with
  | .next t => t.result
  | _ => none

/-- The queue's length, the tracker and the buffer of an outcome's next state. -/
def stateOf (o : Host.Outcome State Fault Refusal) : Option (Nat × Command × List Byte) :=
  match o with
  | .next t => some (t.q.length, t.outstanding, t.rxbuf)
  | _ => none

/-- A result with code `OK`. -/
def ok (d : ResultData) : Option Result := some ⟨.ok, d⟩

/-! ## Well-formedness -/

theorem test_wf_argument : (Instr.setVelocity [1, 2, 3, 4]).wf = true ∧ (Instr.setVelocity [1, 2, 3, 4, 5]).wf = false := by decide

theorem test_wf_every_command_refuses_five_bytes :
    ∀ c ∈ TxCommand.all, (Instr.ofCommand [1, 2, 3, 4, 5] c).wf = false := by decide

theorem test_wf_reply : (Instr.replyUnchanged (List.replicate 253 0)).wf = true ∧
    (Instr.replyUnchanged (List.replicate 254 0)).wf = false ∧ (Instr.replyChanged (List.replicate 254 0)).wf = false := by
  simp only [Instr.wf, replyWf, List.length_replicate]
  decide

/-! ## Decoding: words and bytes written out from R61, R65, R66 and R74 -/

theorem test_decode_nop : decodeOp 0 = .ok .nop := by decide
theorem test_decode_reset : decodeOp 0x100000000000 = .ok .reset := by decide
/-- V-E21: CMD = 1, ALEN = 5. -/
theorem test_decode_encode : decodeOp 0x210500000000 = .ok (.encode 1 5 0) := by decide
/-- P2, line 1. -/
theorem test_decode_enqueue : decodeOp 0x3704FFFE6F9C = .ok (.enqueue 7 4 0xFFFE6F9C) := by decide
theorem test_decode_popnext : decodeOp 0x400000000000 = .ok .popnext := by decide
theorem test_decode_replydone : decodeOp 0x500000000000 = .ok .replydone := by decide
theorem test_decode_isidle : decodeOp 0x600000000000 = .ok .isidle := by decide
theorem test_decode_clearq : decodeOp 0x700000000000 = .ok .clearq := by decide
/-- The byte is `VALUE[7:0]`; CMD, ALEN and the rest of VALUE are ignored. -/
theorem test_decode_rxpush : decodeOp 0x8F07AABBCC55 = .ok (.rxpush 0x55) := by decide
theorem test_decode_extract : decodeOp 0x900000000000 = .ok .extract := by decide
theorem test_decode_rxdrop : decodeOp 0xA00080000001 = .ok (.rxdrop 0x80000001) := by decide
theorem test_decode_checksum : decodeOp 0xB0000000000C = .ok (.checksum 12) := by decide
theorem test_decode_validate : decodeOp 0xC0000000000D = .ok (.validate 13) := by decide
theorem test_decode_rxstep : decodeOp 0xD00000000000 = .ok .rxstep := by decide
theorem test_decode_rxflush : decodeOp 0xE00000000000 = .ok .rxflush := by decide
theorem test_decode_reserved : decodeOp 0xF80000000001 = .ok (.reservedOp15 0x80000000001) := by decide
/-- V-Q22, and the highest bit of RSV. -/
theorem test_decode_rsv : decodeOp 0x400800000000 = .error .reservedBits ∧ decodeOp 0x008000000000 = .error .reservedBits := by decide

/-- V-E1 to V-E6 and two frames of R61 for the other commands without an argument (offset 2 is 0x20 + CMDIDX). -/
theorem test_decode_commands :
    decodeFrame Config.testcfg.toParams [0x43, 0x04, 0x21, 0x98] = .ok (.clearError []) ∧
    decodeFrame Config.testcfg.toParams [0x43, 0x05, 0x22, 0x02, 0x94] = .ok (.setControlMode [2]) ∧
    decodeFrame Config.testcfg.toParams [0x43, 0x04, 0x23, 0x96] = .ok (.getActuatorInfo []) ∧
    decodeFrame Config.testcfg.toParams [0x43, 0x04, 0x24, 0x95] = .ok (.clearShaftPosition []) ∧
    decodeFrame Config.testcfg.toParams [0x43, 0x05, 0x25, 0xFF, 0x94] = .ok (.setWatchdog [0xFF]) ∧
    decodeFrame Config.testcfg.toParams [0x43, 0x06, 0x26, 0x00, 0x00, 0x91] = .ok (.setTrapezoidalVelocity [0, 0]) := by decide
theorem test_decode_more_commands :
    decodeFrame Config.testcfg.toParams [0x43, 0x07, 0x27, 0x12, 0x34, 0x56, 0xF3] = .ok (.setTrapezoidalPosition [0x12, 0x34, 0x56]) ∧
    decodeFrame Config.testcfg.toParams [0x43, 0x04, 0x28, 0x91] = .ok (.getPosition []) ∧
    decodeFrame Config.testcfg.toParams statusFrame = .ok (.getStatus []) ∧
    decodeFrame Config.testcfg.toParams [0x43, 0x04, 0x2A, 0x8F] = .ok (.getDriveStatus []) ∧
    decodeFrame Config.testcfg.toParams [0x43, 0x06, 0x2B, 0xFB, 0x1E, 0x73] = .ok (.setVelocity [0xFB, 0x1E]) ∧
    decodeFrame Config.testcfg.toParams [0x43, 0x08, 0x2C, 0x12, 0x34, 0x56, 0x78, 0x75] = .ok (.setShaftPosition [0x12, 0x34, 0x56, 0x78]) := by
  decide
/-- The counter-examples of S1, an unknown opcode, another marker, a length byte that is not the length. -/
theorem test_decode_frame_rejects :
    decodeFrame Config.testcfg.toParams [0x43, 0x04, 0x29, 0x91] = .error .badChecksum ∧
    decodeFrame Config.testcfg.toParams [0x43, 0x05, 0x29, 0x90] = .error .badLength ∧
    decodeFrame Config.testcfg.toParams [0x42, 0x04, 0x29, 0x90] = .error .notCommandMarker ∧
    decodeFrame Config.testcfg.toParams [0x43, 0x04, 0x2D, 0x8C] = .error .unknownOpcode ∧
    decodeFrame Config.testcfg.toParams [0x43, 0x04, 0x29] = .error .badLength := by decide
theorem test_decode_line :
    decodeLine Config.testcfg.toParams [0x06, 0x7E] = .ok (.ack, [0x7E]) ∧
    decodeLine Config.testcfg.toParams [0x15] = .ok (.nak, []) ∧
    decodeLine Config.testcfg.toParams (reply12 ++ [6]) = .ok (.replyUnchanged [0, 0, 1, 0, 0, 0, 0, 0, 0, 0x9E], [6]) ∧
    decodeLine Config.testcfg.toParams [0x58, 0x02] = .ok (.replyChanged [], []) := by decide
theorem test_decode_line_rejects :
    decodeLine Config.testcfg.toParams [] = .error .empty ∧ decodeLine Config.testcfg.toParams [0x43] = .error .noise ∧
    decodeLine Config.testcfg.toParams [0x55] = .error .truncated ∧
    decodeLine Config.testcfg.toParams [0x55, 0x03] = .error .truncated ∧
    decodeLine Config.testcfg.toParams [0x55, 0x01, 0x99] = .error .shortLength := by decide
theorem test_decodeTableWord :
    decodeTableWord 48 0x3B02FFFFFB1E = some (.enqueue 11 2 0xFFFFFB1E) ∧ decodeTableWord 48 0x000800000000 = none ∧
    decodeTableWord 8 0x06 = some .ack ∧ decodeTableWord 8 0x15 = some .nak := by decide
theorem test_fetch_host_word : resultOf (step (State.reset.withFetchWord 48 0x600000000000)) = ok (.bit 1) := by decide
theorem test_fetch_ack : resultOf (step (State.reset.withFetchWord 8 0x06)) = ok (.event .acked) := by decide
/-- V-E5 as one bit string, marker in bits 31:24 (R61). -/
theorem test_fetch_command_frame :
    resultOf (step (base.withFetchWord 32 0x43042990)) = ok (.released .getStatus statusFrame) := by decide
/-- The example of R97 and V-E16 as bit strings (R61). -/
theorem test_frameBits : frameBits Config.testcfg.toParams .setVelocity 0xFFFFFB1E 2 = 0x43062BFB1E73 ∧
    frameBits Config.testcfg.toParams .setShaftPosition 0x12345678 4 = 0x43082C1234567875 ∧
    bitStringBytes 0x43062BFB1E73 6 = [0x43, 0x06, 0x2B, 0xFB, 0x1E, 0x73] := by decide
/-- A reply of declared length 12 whose bytes beyond the second are zero: the sum is not 0 (R146). -/
theorem test_fetch_reply :
    resultOf (step (base.withFetchWord 16 0x550C)) = some ⟨.checksumError, .frame (0x55 :: 0x0C :: List.replicate 10 0)⟩ := by decide

/-! ## The pure functions -/

/-- V-C1 to V-C5. -/
theorem test_cksum : cksum [0x43, 4, 0x21, 0] = 0x98 ∧ cksum [0, 0, 0, 7] = 0 ∧ cksum [0xFF, 1, 9] = 0 ∧
    cksum [0x80, 0x80, 1, 0] = 0xFF ∧ cksum [0x55, 0] = 0xAB := by decide
/-- V-C6 to V-C9. -/
theorem test_valid : valid reply12 = true ∧ valid [0x55, 0x0C, 0, 0, 1, 0, 1, 0, 0, 0, 0, 0x9E] = false ∧
    valid [0x55, 0x0C, 0, 1, 0, 0, 0, 0, 0, 0, 0, 0x9E] = true ∧ valid [0xFE, 2] = true ∧ valid [0x55, 2] = false := by decide
/-- The table of `fits` in 2.2 of the vectors. -/
theorem test_fits : fits 0 0 = true ∧ fits 1 0 = false ∧ fits 0xFF 1 = true ∧ fits 0x100 1 = false ∧ fits 0xFFFFFFFF 1 = true ∧
    fits 0xFFFFFF80 1 = true ∧ fits 0xFFFFFF7F 1 = false ∧ fits 0xFFFF 2 = true ∧ fits 0x10000 2 = false ∧
    fits 0xFFFF8000 2 = true ∧ fits 0xFFFF7FFF 2 = false ∧ fits 0xFFFFFF 3 = true ∧ fits 0x1000000 3 = false ∧
    fits 0xFF800000 3 = true ∧ fits 0xFF7FFFFF 3 = false ∧ fits 0x12345678 4 = true := by decide
/-- V-R3: −102500 and −40. -/
theorem test_sbe : sbe [0xFF, 0xFE, 0x6F, 0x9C] = -102500 ∧ sbe [0xFF, 0xD8] = -40 ∧ ube [0x12, 0x34] = 0x1234 := by decide
/-- V-R3, V-R4, V-R5. -/
theorem test_records :
    readReply .status [0x58, 0x0C, 0x81, 2, 1, 0xFF, 0xFE, 0x6F, 0x9C, 0xFF, 0xD8, 0x39] = .status ⟨0x81, 2, 1, -102500, -40⟩ ∧
    readReply .position [0x55, 0x0D, 1, 0x12, 0x34, 0, 1, 0x90, 0x64, 2, 0xAB, 0xCD, 0xE8] =
      .position ⟨1, 0x1234, 0x19064, 2, 0xABCD⟩ ∧
    readReply .drive [0x58, 0x0C, 0x10, 0, 1, 2, 0, 0, 0x30, 0x40, 0, 0x19] = .drive ⟨0x10, 1, 0x200, 0x30, 0x4000⟩ := by decide
/-- V-X1 to V-X12, V-X14 to V-X19, V-X22. -/
theorem test_extract :
    [([] : List Byte), [6], [0x15], [6, 6, 6], [0], [0, 0xFF, 0x43, 0x7E], [0, 0xFF, 6], [0, 0x15], [0, 0x55, 0x0C], [0x55], [0x58],
      [0x55, 0x0C], reply12, reply12 ++ [6, 0x7E], [0x55, 0], [0x55, 1, 0x99], [0x55, 2], [0x55, 6, 1]].map
        (extract Config.testcfg.toParams) =
    [.incomplete, .complete 1, .complete 1, .complete 1, .discard 1, .discard 4, .discard 2, .discard 1, .discard 1, .incomplete,
      .incomplete, .incomplete, .complete 12, .complete 12, .complete 0, .complete 1, .complete 2, .incomplete] := by decide
/-- V-X20, V-X21. -/
theorem test_extract_largest :
    extract Config.testcfg.toParams (0x55 :: 0xFF :: List.replicate 252 0) = .incomplete ∧
    extract Config.testcfg.toParams (0x55 :: 0xFF :: List.replicate 253 0) = .complete 255 := by decide +kernel

/-! ## The operations, one step each -/

theorem test_nop : resultOf (exec .nop base) = ok .nothing := by decide
/-- V-Q19. -/
theorem test_reset :
    stateOf (exec .reset (st [⟨.getStatus, statusFrame⟩] (some .setVelocity) [0x55])) = some (0, none, []) := by decide
/-- V-E10, V-E17, V-E18. -/
theorem test_encode : resultOf (exec (.encode 11 2 0xFFFFFB1E) base) = ok (.frame [0x43, 6, 0x2B, 0xFB, 0x1E, 0x73]) ∧
    resultOf (exec (.encode 5 1 0x1FF) base) = ok (.frame [0x43, 5, 0x25, 0xFF, 0x94]) ∧
    resultOf (exec (.encode 1 0 0xFFFFFFFF) base) = ok (.frame [0x43, 4, 0x21, 0x98]) := by decide
/-- V-E19 to V-E21. -/
theorem test_encode_refuses : resultOf (exec (.encode 0 0 0) base) = some ⟨.invalidArgument, .operand (.cmd 0)⟩ ∧
    resultOf (exec (.encode 13 0 0) base) = some ⟨.invalidArgument, .operand (.cmd 13)⟩ ∧
    resultOf (exec (.encode 1 5 0) base) = some ⟨.invalidArgument, .operand (.alen 5)⟩ := by decide
/-- V-Q1, V-Q2. -/
theorem test_enqueue : exec (.enqueue 9 0 0) (st [] (some .setVelocity) []) =
    .next ((st [⟨.getStatus, statusFrame⟩] (some .setVelocity) []).ret .nothing) := by rfl
/-- V-Q3, V-Q4, V-Q7. -/
theorem test_enqueue_refuses :
    let full := st (List.replicate 16 ⟨.getStatus, statusFrame⟩) none []
    resultOf (exec (.enqueue 9 0 0) full) = some ⟨.queueFull, .nothing⟩ ∧
    resultOf (exec (.enqueue 11 2 65536) base) = some ⟨.invalidArgument, .operand (.value 65536)⟩ ∧
    resultOf (exec (.enqueue 0 0 0) full) = some ⟨.invalidArgument, .operand (.cmd 0)⟩ := by decide
/-- V-Q8. -/
theorem test_popnext : resultOf (exec .popnext (st [⟨.getStatus, statusFrame⟩] none [])) = ok (.released .getStatus statusFrame) ∧
    stateOf (exec .popnext (st [⟨.getStatus, statusFrame⟩] none [])) = some (0, some .getStatus, []) := by decide
/-- V-Q9, V-Q11. -/
theorem test_popnext_waits : resultOf (exec .popnext base) = some ⟨.empty, .nothing⟩ ∧
    resultOf (exec .popnext (st [] (some .getStatus) [])) = some ⟨.blocked, .command (some .getStatus)⟩ := by decide
/-- V-Q12. -/
theorem test_replydone : stateOf (exec .replydone (st [⟨.getStatus, statusFrame⟩] (some .getStatus) [7])) = some (1, none, [7]) := by
  decide
/-- V-Q15 to V-Q17. -/
theorem test_isidle : resultOf (exec .isidle (st [⟨.getStatus, statusFrame⟩] none [])) = ok (.bit 0) ∧
    resultOf (exec .isidle (st [] (some .getStatus) [])) = ok (.bit 0) ∧
    resultOf (exec .isidle (st [] none [0x55, 0x0C])) = ok (.bit 1) := by decide
/-- V-Q18. -/
theorem test_clearq : stateOf (exec .clearq (st [⟨.getStatus, statusFrame⟩] (some .setVelocity) [0x55])) = some (0, none, [0x55]) := by
  decide
/-- V-X24. -/
theorem test_rxpush : stateOf (exec (.rxpush 0x0C) (st [] none [0x55])) = some (0, none, [0x55, 0x0C]) := by decide
/-- V-X25. -/
theorem test_rxpush_full : resultOf (exec (.rxpush 0) (st [] none (List.replicate 256 0))) = some ⟨.rxFull, .nothing⟩ := by
  decide +kernel
/-- V-X30. -/
theorem test_extract_op : resultOf (exec .extract (st [] none [0, 0xFF, 6])) = ok (.extracted (.discard 2)) := by decide
/-- V-X26, V-X28. -/
theorem test_rxdrop : stateOf (exec (.rxdrop 2) (st [] none [0, 0xFF, 6])) = some (0, none, [6]) ∧
    resultOf (exec (.rxdrop 4) (st [] none [0, 0xFF, 6])) = some ⟨.invalidArgument, .operand (.value 4)⟩ := by decide
/-- V-C10, V-C11, V-C14. -/
theorem test_checksum : resultOf (exec (.checksum 3) (st [] none [0x55, 0x0C, 0])) = ok (.byte 0x9F) ∧
    resultOf (exec (.checksum 4) (st [] none [0x55, 0x0C, 0])) = some ⟨.invalidArgument, .operand (.value 4)⟩ ∧
    resultOf (exec (.checksum 2) base) = some ⟨.invalidArgument, .operand (.value 2)⟩ := by decide
/-- The example of R93, V-C12, V-C13. -/
theorem test_validate : resultOf (exec (.validate 12) (st [] none reply12)) = ok (.bit 1) ∧
    resultOf (exec (.validate 11) (st [] none reply12)) = ok (.bit 0) ∧
    resultOf (exec (.validate 1) (st [] none [0x55, 0x0C, 0])) = some ⟨.framingError, .length 1⟩ ∧
    resultOf (exec (.validate 0) base) = some ⟨.framingError, .length 0⟩ := by decide
/-- V-R6, V-R10, V-R11, V-R12, V-R17. -/
theorem test_rxstep_reply :
    resultOf (exec .rxstep (st [] (some .getActuatorInfo) reply12)) = ok (.event (.decoded .info reply12)) ∧
    resultOf (exec .rxstep (st [] (some .getStatus) [0x55, 0x0C, 0, 0, 1, 0, 1, 0, 0, 0, 0, 0x9E])) =
      some ⟨.checksumError, .frame [0x55, 0x0C, 0, 0, 1, 0, 1, 0, 0, 0, 0, 0x9E]⟩ ∧
    resultOf (exec .rxstep (st [] (some .getPosition) reply12)) = some ⟨.unexpectedReplyLength, .reply 12 (some .getPosition) reply12⟩ ∧
    resultOf (exec .rxstep (st [] none reply12)) = some ⟨.unexpectedReplyLength, .reply 12 none reply12⟩ ∧
    resultOf (exec .rxstep (st [] (some .getStatus) [0x55, 2])) = some ⟨.checksumError, .frame [0x55, 2]⟩ := by decide
/-- V-R15, V-R16, V-R19, V-R21, V-R23. -/
theorem test_rxstep_states :
    [[0x55, 0, 0x58], [0x58, 1, 6], [0x55], [0, 0xFF, 0x43, 6], reply12 ++ [6]].map
      (fun rx => stateOf (exec .rxstep (st [] (some .getStatus) rx))) =
    [some (0, some .getStatus, [0, 0x58]), some (0, some .getStatus, [1, 6]), some (0, some .getStatus, [0x55]),
      some (0, some .getStatus, [6]), some (0, none, [6])] := by decide
/-- V-X29. -/
theorem test_rxflush : stateOf (exec .rxflush (st [] (some .getStatus) [0x55, 0x0C, 0])) = some (0, some .getStatus, []) := by decide
/-- V-Q21. -/
theorem test_reserved : exec (.reservedOp15 5) base = .next (base.raise .badOperation .nothing) := rfl
/-- V-R1, V-R7. -/
theorem test_ack_nak : stateOf (exec .ack (st [] (some .clearError) [6, 7])) = some (0, none, [7]) ∧
    resultOf (exec .nak (st [] (some .setVelocity) [0x15])) = some ⟨.deviceRejected, .command (some .setVelocity)⟩ := by decide
/-- V-R5, V-R4 with the rest of the frame as operand. -/
theorem test_replies :
    resultOf (exec (.replyChanged [0x10, 0, 1, 2, 0, 0, 0x30, 0x40, 0, 0x19]) (st [] (some .getDriveStatus) (List.replicate 12 0))) =
      ok (.event (.decoded .drive [0x58, 0x0C, 0x10, 0, 1, 2, 0, 0, 0x30, 0x40, 0, 0x19])) ∧
    resultOf (exec (.replyUnchanged [1, 0x12, 0x34, 0, 1, 0x90, 0x64, 2, 0xAB, 0xCD, 0xE8]) (st [] (some .getPosition) [])) =
      ok (.event (.decoded .position [0x55, 0x0D, 1, 0x12, 0x34, 0, 1, 0x90, 0x64, 2, 0xAB, 0xCD, 0xE8])) := by decide
/-- The frames of V-E, released (R123). -/
theorem test_command_rows : ∀ c ∈ TxCommand.all,
    resultOf (exec (Instr.ofCommand [2] c) (st [⟨c, []⟩] none [])) = ok (.released c (encodeFrame Config.testcfg.toParams c 2 1)) := by
  decide
/-- The bootstrap of R80 and R130, under the lengths of P1. -/
theorem test_bootstrap :
    (({ base with ops := initDevice 2 2 1 } : State).nth 6).q.map Entry.bytes =
      [[0x43, 4, 0x21, 0x98], [0x43, 4, 0x21, 0x98], [0x43, 6, 0x26, 0, 0, 0x91], [0x43, 5, 0x22, 2, 0x94], statusFrame] := by decide
/-- P1, lines 10 to 12. -/
theorem test_pump : ((st [⟨.getStatus, statusFrame⟩] (some .clearError) []).pump [6]).result = ok (.released .getStatus statusFrame) := by
  decide

/-! ## Witnesses: states and operands that meet all hypotheses of a statement together -/

/-- A state with the invariants and a frame queued, nothing outstanding. -/
def queued : State := st [⟨.getStatus, statusFrame⟩] none []

theorem witness_DecodeEncodeAgree : (Instr.setShaftPosition [1, 2, 3, 4]).wf = true ∧ (Instr.clearError []).wf = true ∧
    (Instr.replyChanged []).wf = true ∧ Instr.rxstep.wf = true := by decide

theorem witness_DecodedWireBytesEncodeBack : decodeFrame Config.testcfg.toParams statusFrame = .ok (.getStatus []) ∧
    decodeLine Config.testcfg.toParams [0x58, 0x02, 0x07] = .ok (.replyChanged [], [0x07]) := by decide

theorem witness_SelectCodesDecode : ∀ k : BitVec 4, opField (opWord k 3 2 1) = k ∧ rsvField (opWord k 3 2 1) = 0 := by decide

theorem witness_IllegalWordsAnswerBadOperation :
    ({ base with ops := [0xF00000000000] } : State).ops = [0xF00000000000] ∧ opField 0xF00000000000 = 15 ∧
    ({ base with ops := [0x008000000000] } : State).ops = [0x008000000000] ∧ rsvField 0x008000000000 ≠ 0 := by decide

theorem witness_CommandIndexTable : 13 ≤ (13 : BitVec 4).toNat ∧ 13 ≤ (15 : BitVec 4).toNat := by decide

theorem witness_ConfigurationsMeetConstraints : Config.testcfg.rxbufCap = some 256 ∧ Config.testcfg.qdepth = some 16 := by decide

theorem witness_StepRunsDecodedOperation :
    ({ base with ops := [0xD00000000000] } : State).ops = [0xD00000000000] ∧ decodeOp 0xD00000000000 = .ok .rxstep := by decide

theorem witness_StepWithoutOperationChangesNothing : base.ops = [] := rfl

theorem witness_RxstepRunsItemAtOffsetZero :
    decodeLine (st [] none [6]).cfg.toParams (st [] none [6]).rxbuf = .ok (.ack, []) ∧
    decodeLine (st [] none [0x55, 2]).cfg.toParams (st [] none [0x55, 2]).rxbuf = .ok (.replyUnchanged [], []) := by decide

theorem witness_PopnextRunsFrameAtHead : queued.Inv ∧ queued.q = [⟨.getStatus, statusFrame⟩] := by decide

theorem witness_StepKeepsInvariants :
    let s : State := { queued with outstanding := some .clearError, ops := [0x500000000000] }
    s.Inv ∧ (∃ t, step s = .next t ∧ t.outstanding = none) ∧ s.outstanding = some .clearError :=
  ⟨by decide, ⟨_, rfl, rfl⟩, rfl⟩

theorem witness_InvariantsHoldForEveryHost :
    (({ State.reset with cfg := Config.testcfg, ops := [0x390000000000, 0x400000000000] } : State).nth 2).outstanding =
      some .getStatus := by decide

theorem witness_ConfigurationNeverChanges : (∃ t, exec .rxflush queued = .next t) ∧ ∃ t, step queued = .next t :=
  ⟨⟨_, rfl⟩, ⟨_, rfl⟩⟩

theorem witness_OnlyListedInstructionsChangeState :
    (∃ t, exec .isidle queued = .next t) ∧ (touches .isidle).queue = false ∧ (touches .isidle).tracker = false ∧
    (touches .isidle).buffer = false := ⟨⟨_, rfl⟩, rfl, rfl, rfl⟩

theorem witness_TrackerChangesOnlyAsListed :
    (∃ t, step { queued with ops := [0x400000000000] } = .next t ∧ t.outstanding ≠ queued.outstanding) ∧
    ∃ t, step { st [] (some .clearError) [6] with ops := [0xD00000000000] } = .next t ∧ t.outstanding ≠ some .clearError :=
  ⟨⟨_, rfl, by decide⟩, ⟨_, rfl, by decide⟩⟩

theorem witness_FramesLeaveInEnqueueOrder :
    let s : State := { queued with ops := [0x400000000000, 0x310000000000] }
    (∀ j, j < 2 → (s.nth j).clearsQueue = false) ∧ s.releasedIn 2 = [⟨.getStatus, statusFrame⟩] ∧ (s.acceptedIn 2).length = 1 := by
  decide

theorem witness_TrackerFreedBetweenReleases :
    let s : State := { st [⟨.getStatus, statusFrame⟩, ⟨.getStatus, statusFrame⟩] none [6] with
      ops := [0x400000000000, 0xD00000000000, 0x400000000000] }
    s.released ≠ [] ∧ (s.nth (1 + 1)).released ≠ [] := by decide

/-- An ENQUEUE and a POPNEXT that answer OK, each changing the count. -/
theorem witness_QueueCountLaws :
    (let s : State := { queued with ops := [0x310000000000] }
     s.nextOp.any isEnqueue = true ∧ s.clearsQueue = false ∧
     ∃ t, step s = .next t ∧ t.result = some ⟨.ok, .nothing⟩ ∧ t.stQcount ≠ s.stQcount) ∧
    (let s : State := { queued with ops := [0x400000000000] }
     s.nextOp = some .popnext ∧ s.clearsQueue = false ∧
     ∃ t, step s = .next t ∧ t.result = some ⟨.ok, .released .getStatus statusFrame⟩ ∧ t.stQcount ≠ s.stQcount) ∧
    ∃ t, exec .popnext base = .next t :=
  ⟨⟨by decide, by decide, _, rfl, by decide, by decide⟩, ⟨by decide, by decide, _, rfl, by decide, by decide⟩, ⟨_, rfl⟩⟩

theorem witness_ResultCodesAsListed :
    ∃ t, step { queued with ops := [0x400000000000] } = .next t ∧ t.result = ok (.released .getStatus statusFrame) :=
  ⟨_, rfl, rfl⟩

theorem witness_SideEffectsAndIdempotency : queued.outstanding = none ∧ queued.q = [⟨.getStatus, statusFrame⟩] := by decide

theorem witness_ResetValues : ∃ t, exec .reset queued = .next t := ⟨_, rfl⟩

theorem witness_EncodeBuildsCommandFrame : (0 : Nat) ≤ 4 ∧ (4 : Nat) ≤ 4 := by decide

theorem witness_EncodeAnswersFrame : (0 : BitVec 4) = 0 ∧ 13 ≤ (13 : BitVec 4).toNat ∧ 13 ≤ (15 : BitVec 4).toNat := by decide

theorem witness_EnqueueAppendsEncodedFrame : 13 ≤ (13 : BitVec 4).toNat ∧ cmdIdx (some .clearError) = 1 ∧
    cmdIdx (some .setShaftPosition) = 12 := by decide

theorem witness_PopnextReleasesHead :
    (st [] (some .getStatus) []).outstanding = some .getStatus ∧ base.outstanding = none ∧ base.q = [] ∧ queued.outstanding = none ∧
    queued.q = ⟨.getStatus, statusFrame⟩ :: [] := by decide

theorem witness_IsidleReportsQuiescence : (∃ t, exec .reset queued = .next t) ∧ (st [] (some .getStatus) []).q = [] ∧
    (st [] (some .getStatus) []).outstanding = some .getStatus := ⟨⟨_, rfl⟩, rfl, rfl⟩

theorem witness_ClearqAbandonsBacklog : base.stIdle = 1 := by decide

theorem witness_RxpushAppendsByte : ({ base with cfg := unboundedCfg } : State).cfg.rxbufCap = none := rfl

theorem witness_RxstepWaitsOrDiscards :
    base.rxbuf = [] ∧ ((st [] none [0x58]).rxbuf = [0x58] ∧ isReplyMarker Config.testcfg.toParams 0x58 = true) ∧
    ((st [] none [0x55, 3]).rxbuf = [0x55, 3] ∧ (st [] none [0x55, 3]).rxbuf.length < (3 : Byte).toNat) ∧
    (st [] none [0x43, 6]).rxbuf = [0x43] ++ [6] ∧ (∀ b ∈ [(0x43 : Byte)], isRecognised Config.testcfg.toParams b = false) ∧
    (∀ b ∈ [(6 : Byte)].head?, isRecognised Config.testcfg.toParams b = true) := by decide

theorem witness_AckClearsTracker : (st [] (some .getStatus) [6, 7]).rxbuf = 0x06 :: [7] := rfl

theorem witness_NakRejectsAndClearsTracker :
    let s := st [⟨.getStatus, statusFrame⟩] (some .setVelocity) [0x15]
    s.rxbuf = 0x15 :: [] ∧ s.q = ⟨.getStatus, statusFrame⟩ :: [] := by decide

theorem witness_ShortDeclaredLengthIsFramingError :
    (st [] none [0x55, 1, 6]).rxbuf = 0x55 :: 1 :: [6] ∧ (st [] none [0x58, 0]).rxbuf = 0x58 :: 0 :: [] ∧
    isReplyMarker (st [] none [0x55, 1, 6]).cfg.toParams 0x55 = true ∧ isReplyMarker (st [] none [0x58, 0]).cfg.toParams 0x58 = true ∧
    (1 : Byte).toNat < 2 ∧ (0 : Byte).toNat < 2 := by decide

/-- One frame for each clause: a wrong sum at declared length 2, a right sum with no expected length, and a decoded one. -/
theorem witness_ReplyFrameIsJudged :
    ((st [] none [0x58, 2]).rxbuf = [0x58, 2] ++ [] ∧ sum8 [0x58, 2] ≠ 0) ∧
    ((st [] (some .setVelocity) (reply12 ++ [6])).rxbuf = reply12 ++ [6] ∧ sum8 reply12 = 0 ∧
      expLen (some .setVelocity) ≠ some 12) ∧
    expLen (some .getStatus) = some 12 ∧ kindOf (some .getStatus) = some .status := by decide

theorem witness_CommandRowsTransmitTheirFrame :
    (queued.outstanding = none ∧ queued.q = ⟨.getStatus, statusFrame⟩ :: []) ∧
    (st [] (some .setVelocity) []).outstanding = some .setVelocity ∧ base.outstanding = none ∧ base.q = [] := by decide

theorem witness_ArgumentBytesAreBigEndian : (4 : Nat) ≤ 4 ∧ (3 : Nat) < 4 := by decide

theorem witness_ChecksumLaws :
    2 ≤ [(0xFE : Byte), 2].length ∧ 1 < [(0xFE : Byte), 2].length ∧ [(0xFE : Byte), 2][1]? ≠ some 3 ∧ valid [0xFE, 2] = true ∧
    [(0xFE : Byte), 2][0]? = some 0xFE ∧ [(0xFE : Byte), 2][1]? = some 2 ∧ [(0xFE : Byte), 2].Perm [2, 0xFE] := by decide

theorem witness_FitsIsRepresentability : fits 0xFFFFFFFF 1 = true ∧ fits 0xFFFFFF 3 = true ∧ fits 0x80000000 4 = true := by decide

theorem witness_EncodeLaws :
    (0x1FF : Word).toNat % 2 ^ (8 * 1) = (0xFF : Word).toNat % 2 ^ (8 * 1) ∧
    encodeFrame Config.testcfg.toParams .getStatus 0x1FF 1 = encodeFrame Config.testcfg.toParams .getStatus 0xFF 1 := by decide

theorem witness_ExtractLaws :
    ([0, 0x43] : List Byte) ≠ [] ∧ (∀ b ∈ ([0, 0x43] : List Byte), isRecognised Config.testcfg.toParams b = false) ∧
    isBare 0x15 = true ∧ isReplyMarker Config.testcfg.toParams 0x58 = true ∧ (2 : Byte).toNat = [(0x58 : Byte), 2].length ∧
    extract Config.testcfg.toParams [0x58, 2] = .complete 2 ∧ extract Config.testcfg.toParams [0, 6] = .discard 1 ∧
    (∃ b ∈ ([0, 6] : List Byte), isRecognised Config.testcfg.toParams b = true) := by decide

theorem witness_ExtractBounds : extract Config.testcfg.toParams [7] = .discard 1 ∧
    extract Config.testcfg.toParams [0x55, 0] = .complete 0 ∧ isReplyMarker Config.testcfg.toParams 0x55 = true := by decide

theorem witness_RxstepFrame : resultOf (exec .rxstep (st [] (some .getStatus) [0x55])) = ok (.event .wait) ∧
    resultOf (exec .rxstep (st [] (some .getStatus) [7])) = ok (.event (.discarded 1)) ∧
    isAnswer (ok (.event (.discarded 1))) = false := by decide

theorem witness_DrainingEndsInWait :
    (∃ t, exec .rxstep (st [] none [6]) = .next t ∧ t.result ≠ ok (.event .wait)) ∧
    ∃ t, exec .rxstep (st [] none [0x55]) = .next t ∧ t.result = ok (.event .wait) ∧ (st [] none [0x55]).rxbuf ≠ [] :=
  ⟨⟨_, rfl, by decide⟩, ⟨_, rfl, by decide, by decide⟩⟩

theorem witness_DrainedBufferTakesNextByte :
    ∃ t, exec .rxstep (st [] none [0x55]) = .next t ∧ t.result = ok (.event .wait) := ⟨_, rfl, by decide⟩

theorem witness_RxstepEqualsHandDriven :
    (st [] (some .getStatus) reply12).rxbuf.length < 2 ^ 32 ∧ ∃ t, exec .rxstep (st [] (some .getStatus) reply12) = .next t :=
  ⟨by decide, ⟨_, rfl⟩⟩

/-! ## A fair host (R189) -/

/-- A host that releases the queued frame, gives its command up and then issues NOP for ever. -/
def fairHost : Nat → OpWord
  | 0 => 0x400000000000
  | 1 => 0x500000000000
  | _ => 0

theorem fairHost_idle (k : Nat) : (queued.under fairHost (k + 2)).nextOp = some .nop ∧
    (queued.under fairHost (k + 2)).q = [] ∧ (queued.under fairHost (k + 2)).outstanding = none := by
  induction k with
  | zero => decide
  | succ k ih =>
    have h := State.exec_of_nextOp ih.1
    simp only [exec, execNop, Host.Outcome.next.injEq] at h
    refine ⟨by change (decodeOp 0).toOption = some .nop; decide, ?_⟩
    rw [(State.under_succ _ _ _).1, (State.under_succ _ _ _).2, ← h]
    exact ih.2

/-- The three hypotheses of `idle_reached` hold together of a run in which a command is outstanding. -/
theorem witness_idle_reached : (queued.under fairHost 1).outstanding = some .getStatus ∧ EveryCommandSettled (queued.under fairHost) ∧
    HostKeepsPumping (queued.under fairHost) ∧ HostEndsRequests (queued.under fairHost) := by
  refine ⟨by decide, fun k hk => ?_, fun k _ hq => ?_, 2, fun k hk => ?_⟩
  · match k with
    | 0 => exact absurd rfl hk
    | 1 => exact ⟨1, le_rfl, by decide⟩
    | k + 2 => exact absurd (fairHost_idle k).2.2 hk
  · match k with
    | 0 => exact ⟨0, le_rfl, by decide⟩
    | 1 => exact absurd (by decide) hq
    | k + 2 => exact absurd (fairHost_idle k).2.1 hq
  · obtain ⟨j, rfl⟩ := Nat.exists_eq_add_of_le' hk
    simp [State.accepted, (fairHost_idle j).1, isEnqueue]

end Sys2Proof.Tests
end

/-! PROOFS. The scope of the SFC (00_scope.md): the configurations of R9, the expected reply lengths of R7, and the step, which runs
the decoded operation and always answers a next state. -/

namespace Sys2Proof.Proofs

open Sys2Proof Sys2Proof.Machine

/-! ## Configurations -/

/-- `none` is the unbounded capacity, so a bound speaks only of the numbers. -/
theorem capAtLeast_iff (k : Nat) (cap : Option Nat) : capAtLeast k cap = true ↔ ∀ n, cap = some n → k ≤ n := by
  cases cap with
  | none => simp [capAtLeast]
  | some m => simp [capAtLeast]

/-- R9(d). -/
theorem config_rxbufCap (c : Config) : ∀ n, c.rxbufCap = some n → 255 ≤ n := by
  have h := c.legal
  simp only [Params.legal, Bool.and_eq_true] at h
  obtain ⟨⟨-, hrx⟩, -⟩ := h
  exact (capAtLeast_iff 255 _).mp hrx

/-- R9(e). -/
theorem config_qdepth (c : Config) : ∀ n, c.qdepth = some n → 1 ≤ n := by
  have h := c.legal
  simp only [Params.legal, Bool.and_eq_true] at h
  obtain ⟨-, hq⟩ := h
  exact (capAtLeast_iff 1 _).mp hq

/-- R9(a) and (b): of the five distinct bytes, `MARK_CMD` is the last. -/
theorem config_markers (c : Config) :
    [ackByte, nakByte, c.markReplyUnchanged, c.markReplyChanged].Nodup ∧
    c.markCmd ∉ [ackByte, nakByte, c.markReplyUnchanged, c.markReplyChanged] :=
  ((List.nodup_concat [ackByte, nakByte, c.markReplyUnchanged, c.markReplyChanged] c.markCmd).mp
    (config_nodup_markers c)).symm

/-- Settles O8: the markers, the opcodes and the two capacities, each from its part of `Params.legal`. -/
theorem configurationsMeetConstraints : Obligations.ConfigurationsMeetConstraints := by
  intro c
  obtain ⟨hdistinct, hcmd⟩ := config_markers c
  exact ⟨hdistinct, hcmd, fun _ _ h => opc_inj c h, config_rxbufCap c, config_qdepth c⟩

/-! ## Reply lengths -/

/-- Settles O53, along the rows of R7: the reply of 13 bytes, the three of 12, and the commands without a dispatch row. -/
theorem expectedReplyLengths : Obligations.ExpectedReplyLengths := by
  intro c
  match c with
  | some .getPosition => rfl
  | some .getStatus | some .getDriveStatus | some .getActuatorInfo => rfl
  | some .clearError | some .setControlMode | some .clearShaftPosition | some .setWatchdog | some .setTrapezoidalVelocity
  | some .setTrapezoidalPosition | some .setVelocity | some .setShaftPosition => rfl
  | none => rfl

/-! ## The step, branch by branch -/

theorem step_of_ops_nil {s : State} (hops : s.ops = []) : step s = .next s := by
  simp only [step, hops]

theorem step_of_decodeOp_ok {s : State} {w : OpWord} {rest : List OpWord} {i : Instr} (hops : s.ops = w :: rest)
    (hdec : decodeOp w = .ok i) : step s = exec i { s with ops := rest } := by
  simp only [step, hops, hdec]

theorem step_of_decodeOp_error {s : State} {w : OpWord} {rest : List OpWord} {e : Reject} (hops : s.ops = w :: rest)
    (hdec : decodeOp w = .error e) : step s = .next ({ s with ops := rest } : State).badOperation := by
  simp only [step, hops, hdec]

/-- Settles O9: it is the branch of `step` for a word that decodes. -/
theorem stepRunsDecodedOperation : Obligations.StepRunsDecodedOperation :=
  fun _ _ _ _ hops hdec => step_of_decodeOp_ok hops hdec

/-! ## No traps -/

theorem exec_completes (i : Instr) (s : State) : ∃ t, exec i s = .next t := by
  obtain ⟨t, ht, -⟩ := exec_queueEffect i s
  exact ⟨t, ht⟩

/-- Each branch of `step` answers a next state: the idle one, `BadOperation`, and an instruction's own. -/
theorem step_completes (s : State) : ∃ t, step s = .next t := by
  cases hops : s.ops with
  | nil => exact ⟨s, step_of_ops_nil hops⟩
  | cons w rest =>
    cases hdec : decodeOp w with
    | error e => exact ⟨_, step_of_decodeOp_error hops hdec⟩
    | ok i =>
      obtain ⟨t, ht⟩ := exec_completes i { s with ops := rest }
      exact ⟨t, (step_of_decodeOp_ok hops hdec).trans ht⟩

/-- Settles O13: every instruction, and every branch of the step, answers a next state (R166, R173). -/
theorem everyInstructionCompletes : Obligations.EveryInstructionCompletes :=
  ⟨exec_completes, step_completes⟩

end Sys2Proof.Proofs

/-! PROOFS. The state of the SFC (10_state.md): what an instruction can do to each piece of the state, said once, and from it the frame,
the invariants of R30 and the rule of the tracker; the items of the wire at the two places of R21; reset and the status outputs. -/

namespace Sys2Proof.Proofs

open Sys2Proof Sys2Proof.Machine

/-! ## What an instruction can do to the state -/

/-- The sixteen rows of the wire, which no operation word decodes to. -/
def onWire : Instr → Bool
  | .nop | .reset | .encode _ _ _ | .enqueue _ _ _ | .popnext | .replydone | .isidle | .clearq | .rxpush _ | .extract | .rxdrop _
  | .checksum _ | .validate _ | .rxstep | .rxflush | .reservedOp15 _ => false
  | _ => true

/-- The operation `i`, answering `r`, writes `OUTSTANDING <- none` (R25). -/
def freesWith (i : Instr) (r : Option Result) : Bool :=
  i == .replydone || i == .clearq || i == .reset || (i == .rxstep && isAnswer r)

/-- The queue `q` after `i` in `s`: as it was, emptied, without its head, or, where it was below capacity, with an encoded frame at the
tail (R23). -/
inductive QueueChange (i : Instr) (s : State) (q : List Entry) : Prop
  | same (hq : q = s.q)
  | emptied (listed : (touches i).queue = true) (hq : q = [])
  | popped (listed : (touches i).queue = true) (hq : q = s.q.tail)
  | appended (listed : (touches i).queue = true) (below : s.queueFull = false) (c : TxCommand) (W : Word) (n : Nat) (hn : n ≤ 4)
      (hq : q = s.q ++ [⟨c, encodeFrame s.cfg.toParams c W n⟩])

/-- The tracker after `i` in `s`: as it was, set where it was free, or freed; and which instruction may do so (R25). -/
inductive TrackerChange (i : Instr) (s t : State) : Prop
  | same (ho : t.outstanding = s.outstanding)
  | set (listed : (touches i).tracker = true) (free : s.outstanding = none)
      (cause : onWire i = true ∨ i = .popnext ∧ ∃ e, s.q.head? = some e ∧ t.outstanding = some e.cmd)
  | freed (listed : (touches i).tracker = true) (ho : t.outstanding = none) (cause : onWire i = true ∨ freesWith i t.result = true)

/-- The receive buffer `rx` after `i` in `s`: as it was, without some bytes at the front, or, where it was below capacity, with a byte
at the end (R26). -/
inductive BufferChange (i : Instr) (s : State) (rx : List Byte) : Prop
  | same (hrx : rx = s.rxbuf)
  | dropped (listed : (touches i).buffer = true) (n : Nat) (hrx : rx = s.rxbuf.drop n)
  | appended (listed : (touches i).buffer = true) (below : s.rxFull = false) (b : Byte) (hrx : rx = s.rxbuf ++ [b])

/-- All that `i` can do to the state `s`, piece by piece, to leave `t`. -/
structure Effect (i : Instr) (s t : State) : Prop where
  cfg : t.cfg = s.cfg
  ops : t.ops = s.ops
  answers : t.result.isSome = true
  queue : QueueChange i s t.q
  tracker : TrackerChange i s t
  buffer : BufferChange i s t.rxbuf

/-- `return` and `raise`: an answer, and nothing else. -/
theorem effect_answer (i : Instr) (s : State) (r : Result) : Effect i s { s with result := some r } :=
  ⟨rfl, rfl, rfl, .same rfl, .same rfl, .same rfl⟩

theorem effect_withPrefix (i : Instr) (s : State) (n : Word) (k : List Byte → ResultData) : Effect i s (s.withPrefix n k) := by
  rcases s.withPrefix_cases n k with ⟨-, h⟩ | ⟨-, -, h⟩ | ⟨-, -, h⟩ <;> rw [h] <;> exact effect_answer i s _

theorem effect_withCommand (i : Instr) (s : State) (cmd : BitVec 4) (alen : BitVec 3) (k : TxCommand → State)
    (hk : ∀ c, alen.toNat ≤ 4 → Effect i s (k c)) : Effect i s (s.withCommand cmd alen k) := by
  rcases s.withCommand_cases cmd alen k with ⟨-, h⟩ | ⟨c, -, -, h⟩ | ⟨c, -, hlen, h⟩ <;> rw [h]
  · exact effect_answer i s _
  · exact effect_answer i s _
  · exact hk c hlen

/-- The rows of the twelve command frames. -/
theorem effect_transmit {i : Instr} (hwire : onWire i = true) (hq : (touches i).queue = true) (ho : (touches i).tracker = true)
    (s : State) (e : Entry) : Effect i s (s.transmit e) := by
  rcases s.transmit_cases e with ⟨c, -, h⟩ | ⟨-, -, h⟩ | ⟨hfree, -, h⟩ <;> rw [h]
  · exact effect_answer i s _
  · exact effect_answer i s _
  · exact ⟨rfl, rfl, rfl, .popped hq rfl, .set ho hfree (.inl hwire), .same rfl⟩

/-- The rows of the two reply frames. -/
theorem effect_acceptReply {i : Instr} (hwire : onWire i = true) (ho : (touches i).tracker = true) (hrx : (touches i).buffer = true)
    (s : State) (f : List Byte) : Effect i s (s.acceptReply f) := by
  rcases s.acceptReply_cases f with ⟨-, h⟩ | ⟨-, -, h⟩ | ⟨k, -, -, -, h⟩ <;> rw [h]
  · exact ⟨rfl, rfl, rfl, .same rfl, .same rfl, .dropped hrx _ rfl⟩
  · exact ⟨rfl, rfl, rfl, .same rfl, .same rfl, .dropped hrx _ rfl⟩
  · exact ⟨rfl, rfl, rfl, .same rfl, .freed ho rfl (.inl hwire), .dropped hrx _ rfl⟩

theorem effect_popnext (s : State) {t : State} (ht : exec .popnext s = .next t) : Effect .popnext s t := by
  simp only [exec, execPopnext, Host.Outcome.next.injEq] at ht
  subst ht
  split
  · exact effect_answer _ s _
  · exact effect_answer _ s _
  next e tl hfree hq =>
    exact ⟨rfl, rfl, rfl, .popped rfl rfl, .set rfl hfree (.inr ⟨rfl, e, by simp [hq], rfl⟩), .same rfl⟩

/-- One turn of the receive pipeline removes bytes at the front of the buffer, or none; parameters and words stay. -/
theorem receive_buffer (s : State) :
    s.receive.cfg = s.cfg ∧ s.receive.ops = s.ops ∧ s.receive.result.isSome = true ∧ ∃ n, s.receive.rxbuf = s.rxbuf.drop n := by
  rcases s.receive_cases with
    ⟨-, h⟩ | ⟨n, -, h⟩ | ⟨tl, -, h⟩ | ⟨tl, -, h⟩ | ⟨m, len, body, -, -, -, -, -, h⟩ | ⟨m, len, body, -, -, -, -, -, h⟩ <;> rw [h]
  · exact ⟨rfl, rfl, rfl, 0, rfl⟩
  · exact ⟨rfl, rfl, rfl, n, rfl⟩
  · exact ⟨rfl, rfl, rfl, 1, rfl⟩
  · exact ⟨rfl, rfl, rfl, 1, rfl⟩
  · exact ⟨rfl, rfl, rfl, 1, rfl⟩
  · rcases s.acceptReply_cases (s.rxbuf.take len.toNat) with ⟨-, h'⟩ | ⟨-, -, h'⟩ | ⟨k, -, -, -, h'⟩ <;> rw [h'] <;>
      exact ⟨rfl, rfl, rfl, _, rfl⟩

theorem effect_receive (s : State) : Effect .rxstep s s.receive := by
  obtain ⟨hcfg, hops, hres, n, hrx⟩ := receive_buffer s
  obtain ⟨hq, ho⟩ := s.receive_tracker
  refine ⟨hcfg, hops, hres, .same hq, ?_, .dropped rfl n hrx⟩
  by_cases ha : isAnswer s.receive.result = true
  · exact .freed rfl (by rw [ho, if_pos ha]) (.inr (by simp [freesWith, ha]))
  · exact .same (by rw [ho, if_neg ha])

/-- Every instruction has an effect of the listed form. -/
theorem effect_of_exec {i : Instr} {s t : State} (ht : exec i s = .next t) : Effect i s t := by
  cases i
  case popnext => exact effect_popnext s ht
  all_goals
    obtain rfl := Host.Outcome.next.inj ht
  case reset =>
    exact ⟨rfl, rfl, rfl, .emptied rfl rfl, .freed rfl rfl (.inr rfl), .dropped rfl s.rxbuf.length (by simp)⟩
  case clearq => exact ⟨rfl, rfl, rfl, .emptied rfl rfl, .freed rfl rfl (.inr rfl), .same rfl⟩
  case replydone => exact ⟨rfl, rfl, rfl, .same rfl, .freed rfl rfl (.inr rfl), .same rfl⟩
  case rxflush => exact ⟨rfl, rfl, rfl, .same rfl, .same rfl, .dropped rfl s.rxbuf.length (by simp)⟩
  case encode => exact effect_withCommand _ _ _ _ _ fun _ _ => effect_answer _ _ _
  case enqueue cmd alen value =>
    refine effect_withCommand _ _ _ _ _ fun c hlen => ?_
    split_ifs with hfits hfull
    · exact effect_answer _ _ _
    · exact effect_answer _ _ _
    · exact ⟨rfl, rfl, rfl, .appended rfl (by simpa using hfull) c value _ hlen rfl, .same rfl, .same rfl⟩
  case rxpush b =>
    split_ifs with hfull
    · exact effect_answer _ _ _
    · exact ⟨rfl, rfl, rfl, .same rfl, .same rfl, .appended rfl (by simpa using hfull) b rfl⟩
  case rxdrop n =>
    split_ifs
    · exact effect_answer _ _ _
    · exact ⟨rfl, rfl, rfl, .same rfl, .same rfl, .dropped rfl _ rfl⟩
  case checksum | validate => exact effect_withPrefix _ _ _ _
  case rxstep => exact effect_receive s
  case ack | nak => exact ⟨rfl, rfl, rfl, .same rfl, .freed rfl rfl (.inl rfl), .dropped rfl 1 rfl⟩
  case replyUnchanged | replyChanged => exact effect_acceptReply rfl rfl rfl _ _
  case nop | isidle | extract | reservedOp15 => exact effect_answer _ _ _
  all_goals exact effect_transmit rfl rfl rfl _ _

/-! ## What a step can do -/

/-- A step is idle, answers `BadOperation` to a rejected word, or runs the operation of the next word. -/
theorem step_cases {s t : State} (ht : step s = .next t) :
    (s.ops = [] ∧ t = s) ∨ (s.nextOp = none ∧ t = ({ s with ops := s.ops.tail } : State).badOperation) ∨
    ∃ w i, decodeOp w = .ok i ∧ s.nextOp = some i ∧ Effect i { s with ops := s.ops.tail } t := by
  cases hops : s.ops with
  | nil => exact .inl ⟨rfl, Host.Outcome.next.inj (ht.symm.trans (step_of_ops_nil hops))⟩
  | cons w rest =>
    cases hdec : decodeOp w with
    | error e =>
      refine .inr (.inl ⟨by simp [State.nextOp, hops, hdec, Except.toOption], ?_⟩)
      exact Host.Outcome.next.inj (ht.symm.trans (step_of_decodeOp_error hops hdec))
    | ok i =>
      refine .inr (.inr ⟨w, i, hdec, by simp [State.nextOp, hops, hdec, Except.toOption], ?_⟩)
      exact effect_of_exec ((step_of_decodeOp_ok hops hdec).symm.trans ht)

theorem next_of_step {s t : State} (ht : step s = .next t) : s.next = t := by simp only [State.next, ht]

/-- The tracker is kept, set where it was free, or freed. -/
theorem TrackerChange.kept_or_free {i : Instr} {s t : State} (h : TrackerChange i s t) :
    t.outstanding = s.outstanding ∨ s.outstanding = none ∨ t.outstanding = none := by
  cases h with
  | same ho => exact .inl ho
  | set _ free => exact .inr (.inl free)
  | freed _ ho => exact .inr (.inr ho)

/-- I1 of R30: a step keeps an outstanding command or frees the tracker. -/
theorem step_keeps_or_frees {s t : State} (ht : step s = .next t) (c : TxCommand) (hc : s.outstanding = some c) :
    t.outstanding = some c ∨ t.outstanding = none := by
  rcases step_cases ht with ⟨-, rfl⟩ | ⟨-, rfl⟩ | ⟨w, i, -, -, he⟩
  · exact .inl hc
  · exact .inl hc
  · rcases he.tracker.kept_or_free with ho | hfree | ho
    · exact .inl (ho.trans hc)
    · cases hc.symm.trans hfree
    · exact .inr ho

/-! ## The invariants of R30 -/

theorem withinCap_mono {cap : Option Nat} {m n : Nat} (hn : withinCap cap n = true) (hmn : m ≤ n) : withinCap cap m = true := by
  cases cap with
  | none => rfl
  | some k =>
    simp only [withinCap, decide_eq_true_eq] at hn ⊢
    omega

/-- Below capacity there is room for one more. -/
theorem withinCap_succ {cap : Option Nat} {n : Nat} (hn : withinCap cap n = true) (hbelow : atCapacity cap n = false) :
    withinCap cap (n + 1) = true := by
  cases cap with
  | none => rfl
  | some k =>
    simp only [withinCap, decide_eq_true_eq] at hn ⊢
    have hne : k ≠ n := by simpa [atCapacity] using hbelow
    omega

/-- What ENQUEUE appends meets I3. -/
theorem encodeFrame_ok (p : Params) (c : TxCommand) (W : Word) {n : Nat} (hn : n ≤ 4) : Entry.Ok p ⟨c, encodeFrame p c W n⟩ := by
  have hlen : (encodeFrame p c W n).length = 4 + n := by rw [encodeFrame, commandFrame_length, be_length]
  refine ⟨?_, ?_, ?_, by simp [hlen], by simp [hlen]; omega, sum8_withChecksum _⟩
  · simp [encodeFrame, commandFrame_cons]
  · rw [hlen]
    simp [encodeFrame, commandFrame_cons, be_length]
  · simp [encodeFrame, commandFrame_cons]

theorem inv_of_empty {s : State} (hq : s.q = []) (hrx : s.rxbuf = []) : s.Inv := by
  refine ⟨?_, ?_, by simp [hq]⟩
  · rw [hq]; cases s.cfg.qdepth <;> simp [withinCap]
  · rw [hrx]; cases s.cfg.rxbufCap <;> simp [withinCap]

theorem QueueChange.withinCap {i : Instr} {s : State} {q : List Entry} (h : QueueChange i s q)
    (hs : withinCap s.cfg.qdepth s.q.length = true) : withinCap s.cfg.qdepth q.length = true := by
  cases h with
  | same hq => rwa [hq]
  | emptied _ hq => exact withinCap_mono hs (by simp [hq])
  | popped _ hq => exact withinCap_mono hs (by simp [hq])
  | appended _ below c W n _ hq => simpa [hq] using withinCap_succ hs below

theorem QueueChange.entriesOk {i : Instr} {s : State} {q : List Entry} (h : QueueChange i s q)
    (hs : ∀ e ∈ s.q, e.Ok s.cfg.toParams) : ∀ e ∈ q, e.Ok s.cfg.toParams := by
  intro e he
  cases h with
  | same hq => exact hs e (hq ▸ he)
  | emptied _ hq => simp [hq] at he
  | popped _ hq => exact hs e (List.mem_of_mem_tail (hq ▸ he))
  | appended _ _ c W n hn hq =>
    rcases List.mem_append.mp (hq ▸ he) with he | he
    · exact hs e he
    · obtain rfl := List.mem_singleton.mp he
      exact encodeFrame_ok _ c W hn

theorem BufferChange.withinCap {i : Instr} {s : State} {rx : List Byte} (h : BufferChange i s rx)
    (hs : withinCap s.cfg.rxbufCap s.rxbuf.length = true) : withinCap s.cfg.rxbufCap rx.length = true := by
  cases h with
  | same hrx => rwa [hrx]
  | dropped _ n hrx => exact withinCap_mono hs (by simp [hrx])
  | appended _ below b hrx => simpa [hrx] using withinCap_succ hs below

/-- I2 from the two stores, I3 from the queue. -/
theorem Effect.keepsInv {i : Instr} {s t : State} (h : Effect i s t) (hs : s.Inv) : t.Inv := by
  obtain ⟨hdepth, hcap, hentries⟩ := hs
  unfold State.Inv
  rw [h.cfg]
  exact ⟨h.queue.withinCap hdepth, h.buffer.withinCap hcap, h.queue.entriesOk hentries⟩

theorem step_keepsInv {s t : State} (hs : s.Inv) (ht : step s = .next t) : t.Inv := by
  rcases step_cases ht with ⟨-, rfl⟩ | ⟨-, rfl⟩ | ⟨w, i, -, -, he⟩
  · exact hs
  · exact hs
  · exact he.keepsInv hs

/-- The invariant of every run: it holds after any number of steps from a state that has it. -/
theorem nth_keepsInv {s : State} (hs : s.Inv) (k : Nat) : (s.nth k).Inv := by
  induction k generalizing s with
  | zero => exact hs
  | succ k ih =>
    obtain ⟨t, ht⟩ := step_completes s
    have ht' : s.next = t := next_of_step ht
    exact ih (ht' ▸ step_keepsInv hs ht)

/-- Settles O14: I2 and I3 from the effect of the step on the stores, I1 from its effect on the tracker. -/
theorem stepKeepsInvariants : Obligations.StepKeepsInvariants :=
  fun _ _ hs ht => ⟨step_keepsInv hs ht, step_keeps_or_frees ht⟩

/-- Settles O15: both states have an empty queue and an empty buffer. -/
theorem resetHasInvariants : Obligations.ResetHasInvariants :=
  ⟨inv_of_empty rfl rfl, fun _ => ⟨_, rfl, inv_of_empty rfl rfl⟩⟩

/-- Settles O16, by induction on the number of steps (`nth_keepsInv`) from the empty stores of reset. -/
theorem invariantsHoldForEveryHost : Obligations.InvariantsHoldForEveryHost := by
  intro c ops k s
  refine ⟨nth_keepsInv (inv_of_empty rfl rfl) k, fun d hd => ?_⟩
  obtain ⟨t, ht⟩ := step_completes s
  rw [next_of_step ht]
  exact step_keeps_or_frees ht d hd

/-! ## The frame -/

/-- Settles O17: no effect writes the parameters or the host's words, and a step takes the first word. -/
theorem configurationNeverChanges : Obligations.ConfigurationNeverChanges := by
  refine ⟨fun i s t ht => ⟨(effect_of_exec ht).cfg, (effect_of_exec ht).ops⟩, fun s t ht => ?_⟩
  rcases step_cases ht with ⟨hops, rfl⟩ | ⟨-, rfl⟩ | ⟨w, i, -, -, he⟩
  · exact ⟨rfl, by rw [hops]; rfl⟩
  · exact ⟨rfl, rfl⟩
  · exact ⟨he.cfg, he.ops⟩

theorem QueueChange.unchanged {i : Instr} {s : State} {q : List Entry} (h : QueueChange i s q) (hi : (touches i).queue = false) :
    q = s.q := by
  cases h with
  | same hq => exact hq
  | emptied listed | popped listed | appended listed => cases hi.symm.trans listed

theorem TrackerChange.unchanged {i : Instr} {s t : State} (h : TrackerChange i s t) (hi : (touches i).tracker = false) :
    t.outstanding = s.outstanding := by
  cases h with
  | same ho => exact ho
  | set listed | freed listed => cases hi.symm.trans listed

theorem BufferChange.unchanged {i : Instr} {s : State} {rx : List Byte} (h : BufferChange i s rx) (hi : (touches i).buffer = false) :
    rx = s.rxbuf := by
  cases h with
  | same hrx => exact hrx
  | dropped listed | appended listed => cases hi.symm.trans listed

/-- Settles O18: every change in an effect comes with the list the instruction stands in. -/
theorem onlyListedInstructionsChangeState : Obligations.OnlyListedInstructionsChangeState := by
  intro i s t ht
  have he := effect_of_exec ht
  exact ⟨he.queue.unchanged, he.tracker.unchanged, he.buffer.unchanged, he.answers⟩

/-! ## The tracker -/

theorem onWire_of_decodeOp {w : OpWord} {i : Instr} (h : decodeOp w = .ok i) : onWire i = false := by
  unfold decodeOp at h
  split_ifs at h
  · obtain rfl := Except.ok.inj h; rfl
  · split at h <;> obtain rfl := Except.ok.inj h <;> rfl

theorem freesTracker_of_freesWith {s : State} {i : Instr} (hi : s.nextOp = some i) (h : freesWith i s.next.result = true) :
    s.freesTracker = true := by
  simpa [State.freesTracker, hi, freesWith] using h

/-- Settles O19: of the effects on the tracker, those of the wire's rows fall away, because the step runs a decoded operation word. -/
theorem trackerChangesOnlyAsListed : Obligations.TrackerChangesOnlyAsListed := by
  intro s t ht hne
  rcases step_cases ht with ⟨-, rfl⟩ | ⟨-, rfl⟩ | ⟨w, i, hdec, hi, he⟩
  · exact absurd rfl hne
  · exact absurd rfl hne
  · have hwire : onWire i ≠ true := by simp [onWire_of_decodeOp hdec]
    cases he.tracker with
    | same ho => exact absurd ho hne
    | set _ free cause =>
      obtain ⟨rfl, e, hhead, ho⟩ := cause.resolve_left hwire
      exact .inl ⟨free, hi, e, hhead, ho⟩
    | freed _ ho cause =>
      have hfrees := cause.resolve_left hwire
      rw [← next_of_step ht] at hfrees
      exact .inr ⟨fun h => hne (ho.trans h.symm), ho, freesTracker_of_freesWith hi hfrees⟩

/-! ## The inbound item at offset 0 of the receive buffer -/

/-- What `decodeReply` reads is the length byte of the frame and the bytes it declares. -/
theorem decodeReply_ok {mk : List Byte → Instr} {bs tl : List Byte} {i : Instr} (h : decodeReply mk bs = .ok (i, tl)) :
    ∃ rest, rest.length ≤ 253 ∧ i = mk rest ∧ bs = BitVec.ofNat 8 (rest.length + 2) :: (rest ++ tl) := by
  cases bs with
  | nil => cases h
  | cons len body =>
    simp only [decodeReply] at h
    split_ifs at h with hshort htrunc
    obtain ⟨rfl, rfl⟩ := Prod.mk.inj (Except.ok.inj h)
    have hlt := len.isLt
    have hlen : (body.take (len.toNat - 2)).length = len.toNat - 2 := by rw [List.length_take]; omega
    refine ⟨_, by omega, rfl, ?_⟩
    rw [hlen, List.take_append_drop, Nat.sub_add_cancel (by omega), BitVec.ofNat_toNat, BitVec.setWidth_eq]

/-- The four inbound items, each with the bytes it stands for and those after it (R67). -/
theorem decodeLine_ok {p : Params} {bs tl : List Byte} {i : Instr} (h : decodeLine p bs = .ok (i, tl)) :
    (i = .ack ∧ bs = ackByte :: tl) ∨ (i = .nak ∧ bs = nakByte :: tl) ∨
    (∃ rest, rest.length ≤ 253 ∧ i = .replyUnchanged rest ∧ bs = replyFrame p.markReplyUnchanged rest ++ tl) ∨
    (∃ rest, rest.length ≤ 253 ∧ i = .replyChanged rest ∧ bs = replyFrame p.markReplyChanged rest ++ tl) := by
  cases bs with
  | nil => cases h
  | cons b0 body =>
    simp only [decodeLine] at h
    split_ifs at h with hack hnak hunchanged hchanged
    · obtain ⟨rfl, rfl⟩ := Prod.mk.inj (Except.ok.inj h)
      exact .inl ⟨rfl, by rw [hack]⟩
    · obtain ⟨rfl, rfl⟩ := Prod.mk.inj (Except.ok.inj h)
      exact .inr (.inl ⟨rfl, by rw [hnak]⟩)
    · obtain ⟨rest, hlen, hi, hbody⟩ := decodeReply_ok h
      exact .inr (.inr (.inl ⟨rest, hlen, hi, by rw [hunchanged, hbody]; rfl⟩))
    · obtain ⟨rest, hlen, hi, hbody⟩ := decodeReply_ok h
      exact .inr (.inr (.inr ⟨rest, hlen, hi, by rw [hchanged, hbody]; rfl⟩))

/-- R9(a): the markers of the replies are no bare bytes. -/
theorem isBare_of_isReplyMarker (c : Config) {m : Byte} (hm : isReplyMarker c.toParams m = true) : isBare m = false := by
  have hdistinct := config_nodup_markers c
  simp only [isReplyMarker, Bool.or_eq_true, beq_iff_eq] at hm
  simp only [isBare, Bool.or_eq_false_iff, beq_eq_false_iff_ne]
  rcases hm with rfl | rfl <;> constructor <;> rintro heq <;> simp [heq] at hdistinct

theorem extract_of_isBare (p : Params) {b : Byte} (hb : isBare b = true) (tl : List Byte) : extract p (b :: tl) = .complete 1 := by
  simp [extract, isRecognised, hb, List.findIdx?_cons]

theorem receive_of_ack {s : State} {tl : List Byte} (h : s.rxbuf = ackByte :: tl) : s.receive = s.acceptAck := by
  have hx : extract s.cfg.toParams s.rxbuf = .complete 1 := by rw [h, extract_of_isBare _ (by decide)]
  have hhead : s.rxbuf.head? = some ackByte := by rw [h]; rfl
  simp only [State.receive, hx, if_pos hhead]

theorem receive_of_nak {s : State} {tl : List Byte} (h : s.rxbuf = nakByte :: tl) : s.receive = s.acceptNak := by
  have hx : extract s.cfg.toParams s.rxbuf = .complete 1 := by rw [h, extract_of_isBare _ (by decide)]
  have hhead : s.rxbuf.head? = some nakByte := by rw [h]; rfl
  have hne : s.rxbuf.head? ≠ some ackByte := by rw [hhead]; decide
  simp only [State.receive, hx, if_neg hne, if_pos hhead]

/-- A whole reply frame at the head of the buffer is judged, whatever follows it. -/
theorem receive_of_reply {s : State} {m : Byte} {rest tl : List Byte} (hm : isReplyMarker s.cfg.toParams m = true)
    (hlen : rest.length ≤ 253) (h : s.rxbuf = replyFrame m rest ++ tl) : s.receive = s.acceptReply (replyFrame m rest) := by
  have hbare := isBare_of_isReplyMarker s.cfg hm
  have hnat : (rest.length + 2) % 256 = rest.length + 2 := Nat.mod_eq_of_lt (by omega)
  have hx : extract s.cfg.toParams s.rxbuf = .complete (rest.length + 2) := by
    simp [h, replyFrame, extract, isRecognised, hm, hbare, List.findIdx?_cons, hnat]
  have hne : m ≠ ackByte ∧ m ≠ nakByte := by simpa [isBare] using hbare
  have hpre : s.rxbuf.take (rest.length + 2) = replyFrame m rest := by
    rw [h, ← replyFrame_length m rest, List.take_left]
  have hhead : s.rxbuf.head? = some m := by simp [h, replyFrame]
  simp [State.receive, hx, hhead, hne, hpre]

theorem acceptReply_q (s : State) (f : List Byte) : (s.acceptReply f).q = s.q := by
  rcases s.acceptReply_cases f with ⟨-, h⟩ | ⟨-, -, h⟩ | ⟨k, -, -, -, h⟩ <;> rw [h] <;> rfl

theorem acceptReply_rxbuf (s : State) (f : List Byte) : (s.acceptReply f).rxbuf = s.rxbuf.drop f.length := by
  rcases s.acceptReply_cases f with ⟨-, h⟩ | ⟨-, -, h⟩ | ⟨k, -, -, -, h⟩ <;> rw [h] <;> rfl

/-- The two reply rows: the branch RXSTEP takes, and what it leaves. -/
theorem rxstep_runs_reply {s : State} {i : Instr} {m : Byte} {rest tl : List Byte} (hm : isReplyMarker s.cfg.toParams m = true)
    (hlen : rest.length ≤ 253) (h : s.rxbuf = replyFrame m rest ++ tl) (hi : exec i s = .next (s.acceptReply (replyFrame m rest))) :
    exec .rxstep s = exec i s ∧ ∃ t, exec i s = .next t ∧ t.rxbuf = tl ∧ t.q = s.q := by
  refine ⟨?_, _, hi, ?_, acceptReply_q s _⟩
  · rw [hi, ← receive_of_reply hm hlen h]; rfl
  · rw [acceptReply_rxbuf, h, List.drop_left]

/-- Settles O11, along the four inbound items of R67. -/
theorem rxstepRunsItemAtOffsetZero : Obligations.RxstepRunsItemAtOffsetZero := by
  intro s i tl hdec
  rcases decodeLine_ok hdec with ⟨rfl, h⟩ | ⟨rfl, h⟩ | ⟨rest, hlen, rfl, h⟩ | ⟨rest, hlen, rfl, h⟩
  · exact ⟨congrArg Host.Outcome.next (receive_of_ack h), _, rfl, congrArg (List.drop 1) h, rfl⟩
  · exact ⟨congrArg Host.Outcome.next (receive_of_nak h), _, rfl, congrArg (List.drop 1) h, rfl⟩
  · exact rxstep_runs_reply (by simp [isReplyMarker]) hlen h rfl
  · exact rxstep_runs_reply (by simp [isReplyMarker]) hlen h rfl

/-! ## The command frame at the head of the queue -/

/-- R9(c): an opcode byte names its command. -/
theorem commandOfOpcode_opc (c : Config) (cmd : TxCommand) : commandOfOpcode c.toParams (c.opc cmd) = some cmd := by
  cases h : commandOfOpcode c.toParams (c.opc cmd) with
  | none => simpa using List.find?_eq_none.mp h cmd (mem_all cmd)
  | some a =>
    have ha : c.opc a = c.opc cmd := by simpa using List.find?_some h
    rw [opc_inj c ha]

/-- The checksum byte of R96 is the one R92 computes again. -/
theorem valid_withChecksum (body : List Byte) : valid (withChecksum body) = true := by
  rw [valid, cksum_withChecksum]
  simp [withChecksum]

/-- Bytes that sum to 0 are a body with its checksum (R64). -/
theorem eq_withChecksum_of_sum8 {body : List Byte} {k : Byte} (h : sum8 (body ++ [k]) = 0) : body ++ [k] = withChecksum body := by
  have hk : sum8 body + k = 0 := by simpa [sum8_append] using h
  rw [withChecksum, eq_neg_of_add_eq_zero_right hk]

/-- The frame of a command, with an argument of at most four bytes, decodes to that command and argument. -/
theorem decodeFrame_commandFrame (c : Config) (cmd : TxCommand) {arg : List Byte} (hlen : arg.length ≤ 4) :
    decodeFrame c.toParams (commandFrame c.toParams cmd arg) = .ok (Instr.ofCommand arg cmd) := by
  have hvalid : valid (commandFrame c.toParams cmd arg) = true := valid_withChecksum _
  have hlength : (BitVec.ofNat 8 (4 + arg.length)).toNat = 4 + arg.length := by
    rw [BitVec.toNat_ofNat, Nat.mod_eq_of_lt (by omega)]
  rw [commandFrame_cons] at hvalid ⊢
  simp only [decodeFrame, hvalid, commandOfOpcode_opc, hlength, List.dropLast_concat, List.length_cons, List.length_append,
    List.length_nil]
  rw [if_neg (by simp), if_neg (by omega), if_neg (by simp)]

/-- I3: an entry's bytes are the frame of its command with some argument of at most four bytes. -/
theorem commandFrame_of_entryOk {p : Params} {e : Entry} (h : e.Ok p) :
    ∃ arg, arg.length ≤ 4 ∧ e.bytes = commandFrame p e.cmd arg := by
  obtain ⟨hmark, hlength, hop, hmin, hmax, hsum⟩ := h
  generalize hbs : e.bytes = bs at *
  match bs with
  | [] | [_] | [_, _] => simp at hop
  | m :: len :: op :: body =>
    have hbody : body ≠ [] := by rintro rfl; simp at hmin
    obtain ⟨arg, k, rfl⟩ : ∃ arg k, body = arg ++ [k] := ⟨_, _, (List.dropLast_append_getLast hbody).symm⟩
    simp only [List.length_cons, List.length_append, List.length_nil] at hlength hmax
    simp only [List.getElem?_cons_zero, List.getElem?_cons_succ, Option.some.injEq] at hmark hlength hop
    subst hmark hlength hop
    refine ⟨arg, by omega, ?_⟩
    have hcount : arg.length + (0 + 1) + 1 + 1 + 1 = 4 + arg.length := by omega
    rw [hcount] at hsum ⊢
    exact eq_withChecksum_of_sum8 (body := [p.markCmd, BitVec.ofNat 8 (4 + arg.length), p.opc e.cmd] ++ arg) hsum

/-- The row of a command transmits the frame of that command. -/
theorem exec_ofCommand (arg : List Byte) (cmd : TxCommand) (s : State) :
    exec (Instr.ofCommand arg cmd) s = .next (s.transmit ⟨cmd, commandFrame s.cfg.toParams cmd arg⟩) := by
  cases cmd <;> rfl

/-- POPNEXT is the arbiter's transmission of the head. -/
theorem exec_popnext_of_cons {s : State} {e : Entry} {tl : List Entry} (hq : s.q = e :: tl) :
    exec .popnext s = .next (s.transmit e) := by
  cases ho : s.outstanding <;> simp [exec, execPopnext, State.transmit, ho, hq]

/-- Settles O12: by I3 the head is the frame of its command, which decodes to that command's row. -/
theorem popnextRunsFrameAtHead : Obligations.PopnextRunsFrameAtHead := by
  rintro s e tl ⟨-, -, hentries⟩ hq
  obtain ⟨arg, hlen, hbytes⟩ := commandFrame_of_entryOk (hentries e (by simp [hq]))
  refine ⟨arg, ?_, hbytes, ?_⟩
  · rw [hbytes]
    exact decodeFrame_commandFrame s.cfg e.cmd hlen
  · rw [exec_popnext_of_cons hq, exec_ofCommand, ← hbytes]

/-! ## Reset and status -/

/-- The reset column of R27 follows from the three empty pieces of R31. -/
theorem status_of_empty {t : State} (hq : t.q = []) (ho : t.outstanding = none) (hrx : t.rxbuf = []) :
    t.stOutstanding = 0 ∧ t.stQcount = 0 ∧ t.stRxcount = 0 ∧ t.stIdle = 1 ∧ t.stPending = 0 := by
  simp [State.stOutstanding, State.stQcount, State.stRxcount, State.stIdle, State.stPending, State.idle, hq, ho, hrx, cmdIdx]

/-- Settles O25: power-on and RESET leave the same three empty pieces. -/
theorem resetValues : Obligations.ResetValues := by
  refine ⟨rfl, rfl, rfl, fun s t ht => ?_⟩
  obtain ⟨hq, ho, hrx⟩ : t.q = [] ∧ t.outstanding = none ∧ t.rxbuf = [] := by
    rcases ht with ht | rfl
    · obtain rfl := Host.Outcome.next.inj ht
      exact ⟨rfl, rfl, rfl⟩
    · exact ⟨rfl, rfl, rfl⟩
  exact ⟨hq, ho, hrx, status_of_empty hq ho hrx⟩

theorem idle_iff (s : State) : s.idle = true ↔ s.q.length = 0 ∧ s.outstanding = none := by
  simp [State.idle]

/-- Settles O26: three outputs are read off the state, the two bits are their conditions. -/
theorem statusOutputs : Obligations.StatusOutputs := by
  refine fun s => ⟨rfl, rfl, rfl, ?_, ?_⟩
  · by_cases h : s.q.length = 0 ∧ s.outstanding = none
    · rw [if_pos h, State.stIdle, (idle_iff s).mpr h]; rfl
    · rw [if_neg h, State.stIdle, Bool.eq_false_iff.mpr (mt (idle_iff s).mp h)]; rfl
  · cases ho : s.outstanding <;> simp [State.stPending, ho]

end Sys2Proof.Proofs

/-! PROOFS. The memory of the SFC (20_memory.md): the argument bytes most significant first (R46), which operations change nothing, are
idempotent or are not (R49), and the order in which the frames leave the queue (R51). -/

namespace Sys2Proof.Proofs

open Sys2Proof Sys2Proof.Machine

/-! ## Argument bytes -/

/-- R63: byte `k` of `be(W, n)` is bits `8(n-1-k)` and up. -/
theorem be_getElem? (W : Word) {n k : Nat} (hk : k < n) : (be W n)[k]? = some (W.extractLsb' (8 * (n - 1 - k)) 8) := by
  induction n generalizing k with
  | zero => omega
  | succ n ih =>
    cases k with
    | zero => rfl
    | succ k =>
      have hbelow : n - 1 - k = n + 1 - 1 - (k + 1) := by omega
      simpa [be, hbelow] using ih (k := k) (by omega)

/-- R46: dropping leading bytes leaves the low-order ones. -/
theorem be_drop (W : Word) (m n : Nat) : (be W (m + n)).drop m = be W n := by
  induction m with
  | zero => simp
  | succ m ih => rw [Nat.succ_add, be, List.drop_succ_cons, ih]

/-- Words that agree on their low `8n` bits have the same low-order bytes. -/
theorem be_congr {V W : Word} {n : Nat} (h : ∀ i, i < 8 * n → V.getLsbD i = W.getLsbD i) : be V n = be W n := by
  induction n with
  | zero => rfl
  | succ n ih =>
    have htop : (V >>> (8 * n)).setWidth 8 = (W >>> (8 * n)).setWidth 8 := by
      refine BitVec.eq_of_getLsbD_eq fun i hi => ?_
      simp [h (8 * n + i) (by omega)]
    rw [be, be, htop, ih fun i hi => h i (by omega)]

/-- Settles O48: the bytes and the tail are `be_getElem?` and `be_drop`; cutting `W` to its low `8n` bits keeps those bits. -/
theorem argumentBytesAreBigEndian : Obligations.ArgumentBytesAreBigEndian := by
  intro W n hn
  refine ⟨be_length W n, fun k hk => be_getElem? W hk, ?_, be_congr fun i hi => ?_⟩
  · obtain ⟨m, hm⟩ := Nat.exists_eq_add_of_le' hn
    rw [hm, Nat.add_sub_cancel, be_drop]
  · have hword : i < 32 := by omega
    simp [hi, hword]

/-! ## Side effects and idempotency -/

theorem after_of_exec {i : Instr} {s t : State} (ht : exec i s = .next t) : s.after i = t := by simp only [State.after, ht]

theorem effect_after (i : Instr) (s : State) : Effect i s (s.after i) := by
  obtain ⟨t, ht⟩ := exec_completes i s
  rw [after_of_exec ht]
  exact effect_of_exec ht

/-- No operation reads the result of the one before it (notes/assumptions/3.md). -/
theorem exec_ignores_result (i : Instr) (s : State) (r : Option Result) : exec i { s with result := r } = exec i s := by
  cases i <;> rfl

theorem after_ignores_result (i : Instr) (s : State) (r : Option Result) : ({ s with result := r } : State).after i = s.after i := by
  obtain ⟨t, ht⟩ := exec_completes i s
  rw [after_of_exec ht, after_of_exec ((exec_ignores_result i s r).trans ht)]

/-- An instruction in none of the lists of R23, R25 and R26 writes nothing but its result. -/
theorem after_of_touches_nothing {i : Instr} (hi : touches i = ⟨false, false, false⟩) (s : State) :
    s.after i = { s with result := (s.after i).result } := by
  have he := effect_after i s
  have hq := he.queue.unchanged (by rw [hi])
  have ho := he.tracker.unchanged (by rw [hi])
  have hrx := he.buffer.unchanged (by rw [hi])
  rw [← he.cfg, ← hq, ← ho, ← hrx, ← he.ops]

/-- Such an instruction, run again, repeats its result. -/
theorem after_after_of_touches_nothing {i : Instr} (hi : touches i = ⟨false, false, false⟩) (s : State) :
    (s.after i).after i = s.after i := by
  rw [after_of_touches_nothing hi s, after_ignores_result, ← after_of_touches_nothing hi s]

/-- A frame queued, nothing outstanding and two bytes ACK received: each of the five operations of R49 that are not idempotent does
something here, and something else when it is run again. -/
def busy : State where
  cfg := Config.testcfg
  q := [⟨.getStatus, encodeFrame Config.testcfg.toParams .getStatus 0 0⟩]
  outstanding := none
  rxbuf := [ackByte, ackByte]
  result := none
  ops := []

/-- Settles O24: the six operations without effect are in no list of `touches`; the four idempotent ones write the same empty pieces
again; `busy` shows what the other five do when they are run twice; and POPNEXT is the release of the head. -/
theorem sideEffectsAndIdempotency : Obligations.SideEffectsAndIdempotency := by
  refine ⟨fun i s hi => ?_, fun i s hi => ?_, fun i hi => ⟨busy, ?_⟩, fun s e tl ho hq => ?_⟩
  · have htouches : touches i = ⟨false, false, false⟩ := by
      rcases hi with rfl | ⟨a, b, c, rfl⟩ | rfl | rfl | ⟨n, rfl⟩ | ⟨n, rfl⟩ <;> rfl
    exact ⟨_, after_of_touches_nothing htouches s, after_after_of_touches_nothing htouches s⟩
  · rcases hi with rfl | rfl | rfl | rfl <;> rfl
  · simp only [List.mem_cons, List.not_mem_nil, or_false] at hi
    rcases hi with rfl | rfl | rfl | rfl | rfl
    case inl => exact .inl (by decide)
    case inr.inl => exact .inr (.inr (by decide))
    all_goals exact .inr (.inl (by decide))
  · have hrun : s.after .popnext = s.release e := after_of_exec (by simp only [exec, execPopnext, ho, hq])
    simp [hrun, hq]

/-! ## The order of the frames -/

theorem released_of_not_popnext {s : State} (hi : s.nextOp ≠ some .popnext) : s.released = [] := if_neg hi

theorem accepted_of_not_enqueue {s : State} (hi : s.nextOp.any isEnqueue = false) : s.accepted = [] := by
  simp [State.accepted, hi]

/-- The operations R23 lists for the queue. -/
theorem queue_operation {i : Instr} (hwire : onWire i = false) (hq : (touches i).queue = true) :
    i = .reset ∨ i = .clearq ∨ i = .popnext ∨ isEnqueue i = true := by
  cases i with
  | reset | clearq | popnext => simp
  | enqueue => simp [isEnqueue]
  | nop | encode | replydone | isidle | rxpush | extract | rxdrop | checksum | validate | rxstep | rxflush | reservedOp15 => cases hq
  | _ => cases hwire

/-- A step that neither clears the queue nor runs POPNEXT or ENQUEUE leaves the queue. -/
theorem next_q_of_other {s : State} (hclear : s.clearsQueue = false) (hpop : s.nextOp ≠ some .popnext)
    (henq : s.nextOp.any isEnqueue = false) : s.next.q = s.q := by
  obtain ⟨t, ht⟩ := step_completes s
  rw [next_of_step ht]
  rcases step_cases ht with ⟨-, rfl⟩ | ⟨-, rfl⟩ | ⟨w, i, hdec, hi, he⟩
  · rfl
  · rfl
  · refine he.queue.unchanged (Bool.eq_false_iff.mpr fun hq => ?_)
    rcases queue_operation (onWire_of_decodeOp hdec) hq with rfl | rfl | rfl | h
    · simp [State.clearsQueue, hi] at hclear
    · simp [State.clearsQueue, hi] at hclear
    · exact hpop hi
    · simp [hi, h] at henq

theorem eq_enqueue {i : Instr} (h : isEnqueue i = true) : ∃ cmd alen value, i = .enqueue cmd alen value := by
  unfold isEnqueue at h
  split at h
  · exact ⟨_, _, _, rfl⟩
  · cases h

/-- ENQUEUE leaves the queue, or answers OK with one more entry at the tail. -/
theorem exec_enqueue_q {cmd : BitVec 4} {alen : BitVec 3} {value : Word} {s t : State} (ht : exec (.enqueue cmd alen value) s = .next t) :
    t.q = s.q ∨ t.result = some ⟨.ok, .nothing⟩ ∧ ∃ e, t.q = s.q ++ [e] := by
  obtain rfl := Host.Outcome.next.inj ht
  rcases s.withCommand_cases cmd alen _ with ⟨-, h⟩ | ⟨c, -, -, h⟩ | ⟨c, -, -, h⟩ <;> rw [h]
  · exact .inl rfl
  · exact .inl rfl
  · split_ifs
    · exact .inl rfl
    · exact .inl rfl
    · exact .inr ⟨rfl, _, rfl⟩

/-- What ENQUEUE accepts is what it puts behind the queue. -/
theorem next_q_of_enqueue {s : State} (hi : s.nextOp.any isEnqueue = true) : s.next.q = s.q ++ s.accepted := by
  obtain ⟨i, hop, henq⟩ := (Option.any_eq_true _ _).mp hi
  obtain ⟨cmd, alen, value, rfl⟩ := eq_enqueue henq
  rcases exec_enqueue_q (State.exec_of_nextOp hop) with hq | ⟨hr, e, hq⟩ <;> simp only at hq
  · simp [State.accepted, hq]
  · simp [State.accepted, hi, hr, hq]

/-- What POPNEXT releases is what it takes off the head of the queue. -/
theorem released_append_next_q {s : State} (hi : s.nextOp = some .popnext) : s.released ++ s.next.q = s.q := by
  have hx := State.exec_of_nextOp hi
  cases ho : s.outstanding with
  | some c =>
    simp only [exec, execPopnext, ho, Host.Outcome.next.injEq] at hx
    simp [State.released, hi, ← hx]
  | none =>
    cases hq : s.q with
    | nil =>
      simp only [exec, execPopnext, ho, hq, Host.Outcome.next.injEq] at hx
      simp [State.released, hi, ← hx]
    | cons e tl =>
      simp only [exec, execPopnext, ho, hq, Host.Outcome.next.injEq] at hx
      simp [State.released, hi, ← hx]

/-- Over one step that does not clear the queue no frame is lost and none overtakes another. -/
theorem released_append_next_q_eq {s : State} (hclear : s.clearsQueue = false) : s.released ++ s.next.q = s.q ++ s.accepted := by
  by_cases hpop : s.nextOp = some .popnext
  · rw [released_append_next_q hpop, accepted_of_not_enqueue (by simp [hpop, isEnqueue]), List.append_nil]
  rw [released_of_not_popnext hpop, List.nil_append]
  cases henq : s.nextOp.any isEnqueue with
  | true => exact next_q_of_enqueue henq
  | false => rw [next_q_of_other hclear hpop henq, accepted_of_not_enqueue henq, List.append_nil]

/-- CLEARQ and RESET release nothing and leave an empty queue. -/
theorem released_append_next_q_of_clearsQueue {s : State} (hclear : s.clearsQueue = true) : s.released ++ s.next.q = [] := by
  simp only [State.clearsQueue, Bool.or_eq_true, beq_iff_eq] at hclear
  rcases hclear with hi | hi
  all_goals
    have hq : s.next.q = [] := by rw [← Host.Outcome.next.inj (State.exec_of_nextOp hi), State.ret_q]
    simp [released_of_not_popnext, hi, hq]

/-- One step keeps the order of the frames, whatever it runs. -/
theorem released_append_next_q_sublist (s : State) : (s.released ++ s.next.q).Sublist (s.q ++ s.accepted) := by
  cases hclear : s.clearsQueue with
  | true => simp [released_append_next_q_of_clearsQueue hclear]
  | false => rw [released_append_next_q_eq hclear]

/-- Settles O20, by induction on the number of steps: the first step turns `q` into what it releases and the queue the remaining steps
start from. -/
theorem framesLeaveInEnqueueOrder : Obligations.FramesLeaveInEnqueueOrder := by
  intro s k
  induction k generalizing s with
  | zero => simp [State.releasedIn, State.acceptedIn, State.nth]
  | succ k ih =>
    obtain ⟨hsub, heq⟩ := ih s.next
    simp only [State.releasedIn, State.acceptedIn, State.nth, List.append_assoc]
    constructor
    · calc (s.released ++ (s.next.releasedIn k ++ (s.next.nth k).q)).Sublist (s.released ++ (s.next.q ++ s.next.acceptedIn k)) :=
            hsub.append_left _
        _ = s.released ++ s.next.q ++ s.next.acceptedIn k := (List.append_assoc _ _ _).symm
        List.Sublist _ (s.q ++ s.accepted ++ s.next.acceptedIn k) := (released_append_next_q_sublist s).append_right _
        _ = s.q ++ (s.accepted ++ s.next.acceptedIn k) := List.append_assoc _ _ _
    · intro hclear
      have hfirst : s.released ++ s.next.q = s.q ++ s.accepted := released_append_next_q_eq (hclear 0 (by omega))
      rw [heq fun j hj => hclear (j + 1) (by omega), ← List.append_assoc, hfirst, List.append_assoc]

end Sys2Proof.Proofs

/-! PROOFS. The encodings (30_encoding.md): the fields of the operation word and its select codes, the frames and items of the wire, and
that decoder and encoder undo each other; the command index, and the rows of the twelve command frames. -/

namespace Sys2Proof.Proofs

open Sys2Proof Sys2Proof.Machine

/-! ## The fields of the operation word -/

/-- The word with the given fields, `RSV` among them (R74). -/
def wordOfFields (op cmd : BitVec 4) (rsv : BitVec 5) (alen : BitVec 3) (value : Word) : OpWord := op ++ cmd ++ rsv ++ alen ++ value

theorem opWord_eq_wordOfFields (op cmd : BitVec 4) (alen : BitVec 3) (value : Word) :
    opWord op cmd alen value = wordOfFields op cmd 0 alen value := rfl

section
variable (op cmd : BitVec 4) (rsv : BitVec 5) (alen : BitVec 3) (value : Word)

@[simp] theorem opField_wordOfFields : opField (wordOfFields op cmd rsv alen value) = op := by
  change (op ++ cmd ++ rsv ++ alen ++ value).extractLsb' 44 4 = op
  rw [BitVec.extractLsb'_append_eq_of_le (by decide), BitVec.extractLsb'_append_eq_of_le (by decide),
    BitVec.extractLsb'_append_eq_of_le (by decide), BitVec.extractLsb'_append_eq_of_le (by decide)]
  exact BitVec.extractLsb'_eq_self

@[simp] theorem cmdField_wordOfFields : cmdField (wordOfFields op cmd rsv alen value) = cmd := by
  change (op ++ cmd ++ rsv ++ alen ++ value).extractLsb' 40 4 = cmd
  rw [BitVec.extractLsb'_append_eq_of_le (by decide), BitVec.extractLsb'_append_eq_of_le (by decide), BitVec.extractLsb'_append_eq_of_le (by decide)]
  exact BitVec.extractLsb'_append_eq_right

@[simp] theorem rsvField_wordOfFields : rsvField (wordOfFields op cmd rsv alen value) = rsv := by
  change (op ++ cmd ++ rsv ++ alen ++ value).extractLsb' 35 5 = rsv
  rw [BitVec.extractLsb'_append_eq_of_le (by decide), BitVec.extractLsb'_append_eq_of_le (by decide)]
  exact BitVec.extractLsb'_append_eq_right

@[simp] theorem alenField_wordOfFields : alenField (wordOfFields op cmd rsv alen value) = alen := by
  change (op ++ cmd ++ rsv ++ alen ++ value).extractLsb' 32 3 = alen
  rw [BitVec.extractLsb'_append_eq_of_le (by decide)]
  exact BitVec.extractLsb'_append_eq_right

@[simp] theorem valueField_wordOfFields : valueField (wordOfFields op cmd rsv alen value) = value := by
  change (op ++ cmd ++ rsv ++ alen ++ value).extractLsb' 0 32 = value
  exact BitVec.extractLsb'_append_eq_right

end

/-- Each field starts where the one below it ends, so they join up to the whole word. -/
theorem wordOfFields_fields (w : OpWord) : wordOfFields (opField w) (cmdField w) (rsvField w) (alenField w) (valueField w) = w := by
  simp only [wordOfFields, opField, cmdField, rsvField, alenField, valueField]
  rw [BitVec.extractLsb'_append_extractLsb'_eq_extractLsb' (by rfl), BitVec.extractLsb'_append_extractLsb'_eq_extractLsb' (by rfl),
    BitVec.extractLsb'_append_extractLsb'_eq_extractLsb' (by rfl), BitVec.extractLsb'_append_extractLsb'_eq_extractLsb' (by rfl)]
  exact BitVec.extractLsb'_eq_self

/-- Settles O4: the fields join up to the word. -/
theorem operationWordIsItsFields : Obligations.OperationWordIsItsFields :=
  fun w => (wordOfFields_fields w).symm

/-! ## The select codes -/

theorem wordOfFields_and_opMask (op cmd : BitVec 4) (rsv : BitVec 5) (alen : BitVec 3) (value : Word) :
    wordOfFields op cmd rsv alen value &&& Laws.opMask = wordOfFields op 0#4 rsv 0#3 0#32 := by
  have hmask : Laws.opMask = wordOfFields (BitVec.allOnes 4) 0#4 (BitVec.allOnes 5) 0#3 0#32 := by decide
  rw [hmask]
  simp only [wordOfFields]
  rw [BitVec.and_append, BitVec.and_append, BitVec.and_append, BitVec.and_append]
  simp only [BitVec.and_allOnes, BitVec.and_zero]

theorem setWidth_shiftLeft_eq_wordOfFields (k : BitVec 4) : (k.setWidth 48 <<< 44 : OpWord) = wordOfFields k 0#4 0#5 0#3 0#32 := by
  revert k; decide

/-- R75: the mask keeps the fields `OP` and `RSV`, and the match has `RSV = 0`. -/
theorem and_opMask_eq_iff (w : OpWord) (k : BitVec 4) :
    w &&& Laws.opMask = k.setWidth 48 <<< 44 ↔ opField w = k ∧ rsvField w = 0 := by
  have hmask : w &&& Laws.opMask = wordOfFields (opField w) 0#4 (rsvField w) 0#3 0#32 := by
    rw [← wordOfFields_and_opMask, wordOfFields_fields]
  rw [hmask, setWidth_shiftLeft_eq_wordOfFields]
  constructor
  · intro h
    exact ⟨by simpa using congrArg opField h, by simpa using congrArg rsvField h⟩
  · rintro ⟨rfl, hrsv⟩
    rw [hrsv]
    rfl

/-- R78: select code 15 is reserved whatever the rest of the word. -/
theorem decodeOp_of_reserved {w : OpWord} (hop : opField w = 15) : decodeOp w = .ok (.reservedOp15 (w.extractLsb' 0 44)) :=
  if_pos hop

/-- Settles O3: mask and match by `and_opMask_eq_iff`, and the branch of the decoder for each select code. -/
theorem selectCodesDecode : Obligations.SelectCodesDecode := by
  refine ⟨and_opMask_eq_iff, ?_, ?_, ?_, ?_, ?_, ?_, ?_, ?_, ?_, ?_, ?_, ?_, ?_, ?_, ?_, fun w hop _ => decodeOp_of_reserved hop⟩
  all_goals
    intro w hop hrsv
    simp [decodeOp, hop, hrsv]

/-- A word the encoder builds has `RSV = 0`, so its select code alone picks the branch. -/
theorem decodeOp_opWord {k : BitVec 4} {dec : OpWord → Instr} (h : SelectCode k dec) (cmd : BitVec 4) (alen : BitVec 3) (value : Word) :
    decodeOp (opWord k cmd alen value) = .ok (dec (opWord k cmd alen value)) :=
  h _ (by rw [opWord_eq_wordOfFields, opField_wordOfFields]) (by rw [opWord_eq_wordOfFields, rsvField_wordOfFields])

/-- The rest of a reserved word comes back whole. -/
theorem decodeOp_reserved (rest : BitVec 44) : decodeOp ((15 : BitVec 4) ++ rest) = .ok (.reservedOp15 rest) := by
  have hop : opField ((15 : BitVec 4) ++ rest) = 15 := BitVec.extractLsb'_append_eq_left
  have hrest : ((15 : BitVec 4) ++ rest : OpWord).extractLsb' 0 44 = rest := BitVec.extractLsb'_append_eq_right
  rw [decodeOp_of_reserved hop, hrest]

/-! ## The rows of the wire -/

theorem argWf_iff (arg : List Byte) : argWf arg = true ↔ arg.length ≤ 4 := decide_eq_true_iff

theorem replyWf_iff (rest : List Byte) : replyWf rest = true ↔ rest.length ≤ 253 := decide_eq_true_iff

theorem wf_ofCommand (arg : List Byte) (cmd : TxCommand) : (Instr.ofCommand arg cmd).wf = argWf arg := by cases cmd <;> rfl

theorem encode_ofCommand (p : Params) (arg : List Byte) (cmd : TxCommand) :
    encode p (Instr.ofCommand arg cmd) = .queue (commandFrame p cmd arg) := by cases cmd <;> rfl

/-- The length byte of a reply frame counts the marker and itself. -/
theorem decodeReply_length_cons (mk : List Byte → Instr) {rest : List Byte} (hlen : rest.length ≤ 253) (tl : List Byte) :
    decodeReply mk (BitVec.ofNat 8 (rest.length + 2) :: (rest ++ tl)) = .ok (mk rest, tl) := by
  have hlength : (BitVec.ofNat 8 (rest.length + 2)).toNat = rest.length + 2 := by
    rw [BitVec.toNat_ofNat, Nat.mod_eq_of_lt (by omega)]
  rw [decodeReply, hlength, if_neg (by omega), if_neg (by simp), Nat.add_sub_cancel, List.take_left, List.drop_left]

theorem ne_bareBytes_of_isReplyMarker (c : Config) {m : Byte} (hm : isReplyMarker c.toParams m = true) : m ≠ ackByte ∧ m ≠ nakByte := by
  simpa [isBare] using isBare_of_isReplyMarker c hm

/-- The marker is none of the bytes the decoder compares before it (R9(a), R67). -/
theorem decodeLine_replyUnchanged (c : Config) {rest : List Byte} (hlen : rest.length ≤ 253) (tl : List Byte) :
    decodeLine c.toParams (replyFrame c.markReplyUnchanged rest ++ tl) = .ok (.replyUnchanged rest, tl) := by
  obtain ⟨hack, hnak⟩ := ne_bareBytes_of_isReplyMarker c (m := c.markReplyUnchanged) (by simp [isReplyMarker])
  rw [replyFrame, List.cons_append, List.cons_append, decodeLine, if_neg hack, if_neg hnak, if_pos rfl,
    decodeReply_length_cons _ hlen]

theorem decodeLine_replyChanged (c : Config) {rest : List Byte} (hlen : rest.length ≤ 253) (tl : List Byte) :
    decodeLine c.toParams (replyFrame c.markReplyChanged rest ++ tl) = .ok (.replyChanged rest, tl) := by
  obtain ⟨hack, hnak⟩ := ne_bareBytes_of_isReplyMarker c (m := c.markReplyChanged) (by simp [isReplyMarker])
  have hother : c.markReplyChanged ≠ c.markReplyUnchanged := by
    have hdistinct := config_nodup_markers c
    intro heq
    simp [heq] at hdistinct
  rw [replyFrame, List.cons_append, List.cons_append, decodeLine, if_neg hack, if_neg hnak, if_neg hother, if_pos rfl,
    decodeReply_length_cons _ hlen]

/-! ## Decoding what was encoded -/

/-- Settles O1, along the formats: the select codes of R75 for the operation words, `decodeFrame_commandFrame` for the twelve command
frames, and `decodeLine` at the marker for the inbound items. -/
theorem decodeEncodeAgree : Obligations.DecodeEncodeAgree := by
  intro c i hwf
  obtain ⟨-, hnop, hreset, hencode, henqueue, hpopnext, hreplydone, hisidle, hclearq, hrxpush, hextract, hrxdrop, hchecksum, hvalidate,
    hrxstep, hrxflush, -⟩ := selectCodesDecode
  cases i
  case nop => exact decodeOp_opWord hnop _ _ _
  case reset => exact decodeOp_opWord hreset _ _ _
  case encode cmd alen value => simpa [decode, Sys2Proof.encode, opWord_eq_wordOfFields] using decodeOp_opWord hencode cmd alen value
  case enqueue cmd alen value => simpa [decode, Sys2Proof.encode, opWord_eq_wordOfFields] using decodeOp_opWord henqueue cmd alen value
  case popnext => exact decodeOp_opWord hpopnext _ _ _
  case replydone => exact decodeOp_opWord hreplydone _ _ _
  case isidle => exact decodeOp_opWord hisidle _ _ _
  case clearq => exact decodeOp_opWord hclearq _ _ _
  case rxpush b => simpa [decode, Sys2Proof.encode, opWord_eq_wordOfFields] using decodeOp_opWord hrxpush 0 0 (b.setWidth 32)
  case extract => exact decodeOp_opWord hextract _ _ _
  case rxdrop n => simpa [decode, Sys2Proof.encode, opWord_eq_wordOfFields] using decodeOp_opWord hrxdrop 0 0 n
  case checksum n => simpa [decode, Sys2Proof.encode, opWord_eq_wordOfFields] using decodeOp_opWord hchecksum 0 0 n
  case validate n => simpa [decode, Sys2Proof.encode, opWord_eq_wordOfFields] using decodeOp_opWord hvalidate 0 0 n
  case rxstep => exact decodeOp_opWord hrxstep _ _ _
  case rxflush => exact decodeOp_opWord hrxflush _ _ _
  case reservedOp15 rest => exact decodeOp_reserved rest
  case ack => rfl
  case nak => rfl
  case replyUnchanged rest =>
    have h := decodeLine_replyUnchanged c ((replyWf_iff rest).mp hwf) []
    rw [List.append_nil] at h
    exact congrArg (Except.map Prod.fst) h
  case replyChanged rest =>
    have h := decodeLine_replyChanged c ((replyWf_iff rest).mp hwf) []
    rw [List.append_nil] at h
    exact congrArg (Except.map Prod.fst) h
  all_goals exact decodeFrame_commandFrame c _ ((argWf_iff _).mp hwf)

/-! ## Encoding what was decoded -/

theorem valid_concat_iff (body : List Byte) (k : Byte) : valid (body ++ [k]) = true ↔ sum8 (body ++ [k]) = 0 := by
  simp only [valid, cksum, List.getLast?_concat, List.dropLast_concat, beq_iff_eq, Option.some.injEq, sum8_append, sum8_cons, sum8_nil,
    add_zero, add_eq_zero_iff_eq_neg']

/-- Bytes that decode as a command frame meet I3 for some command: what the decoder tests is what an entry's bytes are (R61, R62, R64). -/
theorem entryOk_of_decodeFrame {p : Params} {bs : List Byte} {i : Instr} (h : decodeFrame p bs = .ok i) :
    ∃ cmd, Entry.Ok p ⟨cmd, bs⟩ := by
  match bs with
  | [] | [_] | [_, _] => cases h
  | m :: len :: op :: body =>
    simp only [decodeFrame] at h
    split_ifs at h with hmark hlength hvalid
    obtain ⟨hcount, hmin, hmax⟩ : len.toNat = (m :: len :: op :: body).length ∧ body.length ≠ 0 ∧ body.length ≤ 5 := by
      simpa only [not_or, not_not, not_lt] using hlength
    cases hop : commandOfOpcode p op with
    | none => simp [hop] at h
    | some cmd =>
      have hopc : p.opc cmd = op := by simpa using List.find?_some hop
      have hsum : sum8 (m :: len :: op :: body) = 0 := by
        have hsplit := List.dropLast_append_getLast (l := m :: len :: op :: body) (by simp)
        rw [← hsplit] at hvalid ⊢
        exact (valid_concat_iff _ _).mp (by simpa using hvalid)
      refine ⟨cmd, by simpa using hmark, ?_, by simp [hopc], ?_, ?_, hsum⟩
      · rw [← hcount, BitVec.ofNat_toNat, BitVec.setWidth_eq]; rfl
      · simp only [List.length_cons]; omega
      · simp only [List.length_cons]; omega

/-- The decoder reads off a command frame the command and the argument it was built from. -/
theorem decodeFrame_ok {c : Config} {bs : List Byte} {i : Instr} (h : decodeFrame c.toParams bs = .ok i) :
    ∃ cmd arg, arg.length ≤ 4 ∧ i = Instr.ofCommand arg cmd ∧ bs = commandFrame c.toParams cmd arg := by
  obtain ⟨cmd, hok⟩ := entryOk_of_decodeFrame h
  obtain ⟨arg, hlen, hbs⟩ : ∃ arg, arg.length ≤ 4 ∧ bs = commandFrame c.toParams cmd arg := commandFrame_of_entryOk hok
  rw [hbs, decodeFrame_commandFrame c cmd hlen] at h
  exact ⟨cmd, arg, hlen, (Except.ok.inj h).symm, hbs⟩

/-- Settles O2, outbound by `decodeFrame_ok`, inbound along the four items of `decodeLine_ok`. -/
theorem decodedWireBytesEncodeBack : Obligations.DecodedWireBytesEncodeBack := by
  refine fun c bs => ⟨fun i h => ?_, fun i tl h => ?_⟩
  · obtain ⟨cmd, arg, hlen, rfl, rfl⟩ := decodeFrame_ok h
    exact ⟨by rw [wf_ofCommand, argWf_iff]; exact hlen, encode_ofCommand _ _ _⟩
  · rcases decodeLine_ok h with ⟨rfl, hbs⟩ | ⟨rfl, hbs⟩ | ⟨rest, hlen, rfl, hbs⟩ | ⟨rest, hlen, rfl, hbs⟩
    · exact ⟨rfl, _, rfl, hbs⟩
    · exact ⟨rfl, _, rfl, hbs⟩
    · exact ⟨(replyWf_iff rest).mpr hlen, _, rfl, hbs⟩
    · exact ⟨(replyWf_iff rest).mpr hlen, _, rfl, hbs⟩

/-- Settles O6: the words by their select codes, the bytes by running the decoder under TESTCFG. -/
theorem sampleWordsDecode : Obligations.SampleWordsDecode := by
  obtain ⟨-, -, -, -, henqueue, -, -, -, -, hrxpush, -, -, -, -, hrxstep, -⟩ := selectCodesDecode
  refine ⟨henqueue 0x3B02FFFFFB1E rfl rfl, hrxstep 0xD00000000000 rfl rfl, hrxpush 0x800000000055 rfl rfl, rfl, ?_, ?_, ?_⟩
  · decide
  · exact decodeLine_replyChanged Config.testcfg (rest := [0x01, 0xA3]) (by decide) []
  · exact decodeFrame_commandFrame Config.testcfg .setVelocity (arg := [0xFB, 0x1E]) (by decide)

/-! ## The command index -/

/-- An index that stands for a command is that command's. -/
theorem cmdIdx_of_ofIdx {i : BitVec 4} {cmd : TxCommand} (h : TxCommand.ofIdx i = some cmd) : cmdIdx (some cmd) = i := by
  have hall : ∀ i : BitVec 4, ∀ cmd ∈ TxCommand.ofIdx i, cmdIdx (some cmd) = i := by decide
  exact hall i cmd h

theorem ofIdx_eq_none_iff (i : BitVec 4) : TxCommand.ofIdx i = none ↔ i = 0 ∨ 13 ≤ i.toNat := by
  revert i; decide

/-- Without a command, the first of the operand checks refuses (R97, R121). -/
theorem withCommand_of_ofIdx_none {cmd : BitVec 4} (h : TxCommand.ofIdx cmd = none) (s : State) (alen : BitVec 3) (k : TxCommand → State) :
    s.withCommand cmd alen k = { s with result := some ⟨.invalidArgument, .operand (.cmd cmd)⟩ } := by
  simp only [State.withCommand, h]; rfl

/-- Settles O7: the two directions of the table, and the refusal of an index without a command. -/
theorem commandIndexTable : Obligations.CommandIndexTable := by
  refine ⟨fun i cmd => ⟨cmdIdx_of_ofIdx, ?_⟩, ofIdx_eq_none_iff, rfl, fun i alen W s hi => ?_, rfl, rfl⟩
  · rintro rfl
    exact ofIdx_cmdIdx cmd
  · have hnone : TxCommand.ofIdx i = none := (ofIdx_eq_none_iff i).mpr (.inr hi)
    exact ⟨congrArg Host.Outcome.next (withCommand_of_ofIdx_none hnone s alen _),
      congrArg Host.Outcome.next (withCommand_of_ofIdx_none hnone s alen _)⟩

/-! ## The rows of the twelve command frames -/

/-- Settles O47, along the three outcomes of the arbiter (R123). -/
theorem commandRowsTransmitTheirFrame : Obligations.CommandRowsTransmitTheirFrame := by
  intro s cmd arg
  rw [exec_ofCommand]
  refine ⟨fun e tl ho hq => ?_, fun d ho => ?_, fun ho hq => ?_⟩
  · simp only [State.transmit, ho, hq, State.release, State.ret, List.tail_cons]
  · simp only [State.transmit, ho, State.raise]
  · simp only [State.transmit, ho, hq, State.raise]

end Sys2Proof.Proofs

/-! PROOFS. The frame codec (40_codec.md): the checksum and its laws (R90 to R95), encode and its laws (R96 to R99), the fit predicate
(R98), the fields of a frame (R100), and the three operations on them. -/

namespace Sys2Proof.Proofs

open Sys2Proof Sys2Proof.Machine

/-! ## The checksum -/

theorem sum8_eq_sum (s : List Byte) : sum8 s = s.sum := by
  induction s with
  | nil => rfl
  | cons b s ih => rw [sum8_cons, ih, List.sum_cons]

theorem sum8_perm {s t : List Byte} (h : s.Perm t) : sum8 s = sum8 t := by
  rw [sum8_eq_sum, sum8_eq_sum, h.sum_eq]

/-- Writing one byte changes the sum by the difference of the new byte and the old. -/
theorem sum8_set {s : List Byte} {i : Nat} {x : Byte} (hx : s[i]? = some x) (b : Byte) : sum8 (s.set i b) = sum8 s + (b - x) := by
  obtain ⟨hi, rfl⟩ := List.getElem?_eq_some_iff.mp hx
  rw [sum8_eq_sum, sum8_eq_sum, List.sum_set', dif_pos hi, neg_add_eq_sub]

/-- The sign change of a byte in the spec's form (R90, R96). -/
theorem byte_neg_eq (b : Byte) : -b = BitVec.ofNat 8 ((256 - b.toNat) % 256) := by
  apply BitVec.eq_of_toNat_eq
  rw [BitVec.toNat_neg, BitVec.toNat_ofNat, Nat.mod_mod]

/-- R92: the last byte is the computed checksum exactly when all bytes sum to 0. -/
theorem valid_iff_sum8 {s : List Byte} (hs : s ≠ []) : valid s = true ↔ sum8 s = 0 := by
  rw [← List.dropLast_append_getLast hs]
  exact valid_concat_iff _ _

/-- Writing the computed checksum over the last byte gives the bytes before it with their checksum. -/
theorem set_last_cksum {s : List Byte} (hs : s ≠ []) : s.set (s.length - 1) (cksum s) = withChecksum s.dropLast := by
  obtain ⟨body, k, rfl⟩ : ∃ body k, s = body ++ [k] := ⟨_, _, (List.dropLast_append_getLast hs).symm⟩
  simp [cksum, withChecksum]

/-- Settles O49: by R92 each law is one about the sum, which a change of a byte shifts by the change and a permutation keeps. -/
theorem checksumLaws : Obligations.ChecksumLaws := by
  intro s hlen
  have hs : s ≠ [] := List.ne_nil_of_length_pos (by omega)
  have hset (i : Nat) (b : Byte) : s.set i b ≠ [] := by simpa using hs
  have hvalid := valid_iff_sum8 hs
  refine ⟨beq_iff_eq, hvalid, ?_, fun i b hi hb hv => ?_, fun i j x y d hij hx hy hv => ?_, fun t ht => ?_⟩
  · rw [set_last_cksum hs]
    exact valid_withChecksum _
  · have hx : s[i]? = some s[i] := List.getElem?_eq_getElem hi
    rw [Bool.eq_false_iff, Ne, valid_iff_sum8 (hset i b), sum8_set hx, hvalid.mp hv, zero_add, sub_eq_zero]
    rintro rfl
    exact hb hx
  · have hy' : (s.set i (x + d))[j]? = some y := by rw [List.getElem?_set_ne hij, hy]
    rw [valid_iff_sum8 (by simpa using hs), sum8_set hy', sum8_set hx, hvalid.mp hv]
    abel
  · have ht' : t ≠ [] := fun h => hs (h ▸ ht).eq_nil
    rw [Bool.eq_iff_iff, valid_iff_sum8 ht', hvalid, sum8_perm ht]

/-! ## The fit predicate -/

/-- R98: from one byte on, room for every word, for the unsigned number, or for the negative one. -/
theorem fits_iff (W : Word) {n : Nat} (hn : 1 ≤ n) :
    fits W n = true ↔ 4 ≤ n ∨ W.toNat < 2 ^ (8 * n) ∨ (-(2 ^ (8 * n - 1)) ≤ W.toInt ∧ W.toInt < 0) := by
  obtain ⟨n, rfl⟩ := Nat.exists_eq_add_of_le' hn
  simp only [fits, Bool.or_eq_true, decide_eq_true_eq, or_assoc]

/-- A word is below `2^k` exactly when its bits from `k` up are all 0. -/
theorem toNat_lt_two_pow_iff (W : Word) (k : Nat) : W.toNat < 2 ^ k ↔ ∀ j, k ≤ j → j < 32 → W.getLsbD j = false := by
  constructor
  · intro h j hj _
    exact Nat.testBit_lt_two_pow (h.trans_le (Nat.pow_le_pow_right (by decide) hj))
  · intro h
    refine Nat.lt_pow_two_of_testBit _ fun j hj => ?_
    by_cases hword : j < 32
    · exact h j hj hword
    · exact BitVec.getLsbD_of_ge W j (by omega)

/-- A word is negative and not below `-2^k`, `k` at most 31, exactly when its bits from `k` up are all 1: its complement is then
below `2^k`. -/
theorem neg_two_pow_le_toInt_iff (W : Word) {k : Nat} (hk : k ≤ 31) :
    (-(2 ^ k) ≤ W.toInt ∧ W.toInt < 0) ↔ ∀ j, k ≤ j → j < 32 → W.getLsbD j = true := by
  have hcompl : (-(2 ^ k) ≤ W.toInt ∧ W.toInt < 0) ↔ (~~~W).toNat < 2 ^ k := by
    have hpow : 2 ^ k ≤ 2 ^ 31 := Nat.pow_le_pow_right (by decide) hk
    have hcast : (2 : Int) ^ k = (2 ^ k : Nat) := by norm_cast
    rw [BitVec.toNat_not, hcast, BitVec.toInt_eq_toNat_cond]
    generalize 2 ^ k = m at hpow ⊢
    split_ifs <;> omega
  rw [hcompl, toNat_lt_two_pow_iff]
  refine forall_congr' fun j => forall_congr' fun _ => forall_congr' fun hj => ?_
  simp [hj]

/-- The signed number of `n` bytes is their unsigned number, brought into the range around 0. -/
theorem sbe_eq_bmod (s : List Byte) : sbe s = (ube s : Int).bmod (2 ^ (8 * s.length)) := by
  have hlt : ube s < 2 ^ (8 * s.length) := by
    rw [pow_mul]
    exact ube_lt s
  rw [sbe, Int.bmod_def]
  generalize 2 ^ (8 * s.length) = m at hlt ⊢
  rw [Int.emod_eq_of_lt (by omega) (by omega)]
  split_ifs <;> omega

/-- The signed number of the argument bytes is the word's, modulo `2^(8n)`. -/
theorem sbe_be (W : Word) {n : Nat} (hn : n ≤ 4) : sbe (be W n) = W.toInt.bmod (2 ^ (8 * n)) := by
  have hdvd : 2 ^ (8 * n) ∣ 2 ^ 32 := Nat.pow_dvd_pow 2 (by omega)
  rw [sbe_eq_bmod, be_length, ube_be, show 256 ^ n = 2 ^ (8 * n) from (pow_mul 2 8 n).symm, Int.natCast_emod, Int.emod_bmod,
    BitVec.toInt_eq_toNat_bmod, Int.bmod_bmod_of_dvd hdvd]

theorem sbe_be_of_neg {W : Word} {n : Nat} (hn : n ≤ 4) (hpos : 1 ≤ n) (hlow : -(2 ^ (8 * n - 1)) ≤ W.toInt) (hneg : W.toInt < 0) :
    sbe (be W n) = W.toInt := by
  have hhalf : 2 ^ (8 * n) = 2 * 2 ^ (8 * n - 1) := by rw [← pow_succ', Nat.sub_add_cancel (by omega)]
  have hcast : (2 : Int) ^ (8 * n - 1) = (2 ^ (8 * n - 1) : Nat) := by norm_cast
  rw [hcast] at hlow
  rw [sbe_be W hn, hhalf]
  exact Int.bmod_eq_of_le (by omega) (by omega)

theorem ube_be_of_lt {W : Word} {n : Nat} (h : W.toNat < 2 ^ (8 * n)) : ube (be W n) = W.toNat := by
  rw [ube_be, Nat.mod_eq_of_lt (by rwa [pow_mul] at h)]

/-- Settles O50: the bits by the two readings of a word as a number, and the truncation for each case of `fits`. -/
theorem fitsIsRepresentability : Obligations.FitsIsRepresentability := by
  refine ⟨fun W => ⟨beq_iff_eq, rfl⟩, fun W n hpos hn => ⟨?_, ?_⟩, fun W n hn hfits => ?_⟩
  · rw [fits_iff W hpos, toNat_lt_two_pow_iff, neg_two_pow_le_toInt_iff W (by omega)]
    exact or_iff_right (by omega)
  · rw [fits_iff W hpos, Nat.lt_iff_le_pred (by positivity)]
    exact or_iff_right (by omega)
  · rcases Nat.eq_zero_or_pos n with rfl | hpos
    · have hW : W = 0 := beq_iff_eq.mp hfits
      exact .inr (ube_be_of_lt (by rw [hW]; decide))
    · rcases (fits_iff W hpos).mp hfits with hfour | hlt | ⟨hlow, hneg⟩
      · obtain rfl : n = 4 := by omega
        exact .inr (ube_be_of_lt W.isLt)
      · exact .inr (ube_be_of_lt hlt)
      · exact .inl (sbe_be_of_neg hn hpos hlow hneg)

/-! ## Encode -/

theorem encodeFrame_length (p : Params) (c : TxCommand) (W : Word) (n : Nat) : (encodeFrame p c W n).length = 4 + n := by
  rw [encodeFrame, commandFrame_length, be_length]

/-- The argument bytes are the low `8n` bits of the word, no more and no less. -/
theorem be_eq_be_iff (V W : Word) (n : Nat) : be V n = be W n ↔ V.toNat % 2 ^ (8 * n) = W.toNat % 2 ^ (8 * n) := by
  rw [pow_mul, show (2 : Nat) ^ 8 = 256 by decide, ← ube_be, ← ube_be]
  constructor
  · exact congrArg ube
  · intro h
    rw [← bitStringBytes_ube (be V n), ← bitStringBytes_ube (be W n), h, be_length, be_length]

/-- Equal frames have the same opcode byte and the same argument, whence the same command (R9(c)). -/
theorem commandFrame_inj (c : Config) {d e : TxCommand} {a b : List Byte}
    (h : commandFrame c.toParams d a = commandFrame c.toParams e b) : d = e ∧ a = b := by
  simp only [commandFrame_cons, List.cons.injEq] at h
  obtain ⟨-, -, hopc, htail⟩ := h
  exact ⟨opc_inj c hopc, (List.append_inj' htail rfl).1⟩

/-- Settles O29. -/
theorem encodeBuildsCommandFrame : Obligations.EncodeBuildsCommandFrame := by
  refine fun p c W n _ => ⟨?_, encodeFrame_length p c W n⟩
  rw [encodeFrame, commandFrame, withChecksum, be_length, byte_neg_eq]

/-- Settles O51: E1 and E2 by the form of the frame, E3 and E4 because the argument bytes are the low bits of the word. -/
theorem encodeLaws : Obligations.EncodeLaws := by
  refine ⟨fun c d W n _ => ⟨valid_withChecksum _, encodeFrame_length _ d W n, ?_, fun V hlow => ?_⟩, fun c d e V W m n _ _ h => ?_⟩
  · rw [encodeFrame, commandFrame_cons, be_length]
    rfl
  · rw [encodeFrame, encodeFrame, (be_eq_be_iff V W n).mpr hlow]
  · obtain ⟨hcmd, harg⟩ := commandFrame_inj c h
    obtain rfl : m = n := by simpa only [be_length] using congrArg List.length harg
    exact ⟨hcmd, rfl, (be_eq_be_iff V W m).mp harg⟩

/-! ## ENCODE, CHECKSUM and VALIDATE -/

/-- With a command, the operand checks leave the test of the length (R97, R121). -/
theorem withCommand_cmdIdx (s : State) (c : TxCommand) (alen : BitVec 3) (k : TxCommand → State) :
    s.withCommand (cmdIdx (some c)) alen k =
      if 4 < alen.toNat then { s with result := some ⟨.invalidArgument, .operand (.alen alen)⟩ } else k c := by
  rw [State.withCommand, ofIdx_cmdIdx]
  rfl

/-- Settles O30: the operand checks in their order, then the frame. -/
theorem encodeAnswersFrame : Obligations.EncodeAnswersFrame := by
  obtain ⟨-, -, -, hselect, -⟩ := selectCodesDecode
  exact ⟨hselect,
    fun cmd alen W s hcmd => congrArg Host.Outcome.next (withCommand_of_ofIdx_none ((ofIdx_eq_none_iff cmd).mpr hcmd) s alen _),
    fun c alen W s => congrArg Host.Outcome.next (withCommand_cmdIdx s c alen _)⟩

/-- The range checks in their order, with the data that `RXBUF[0:n]` answers where they pass (R91, R93). -/
theorem withPrefix_eq {s : State} {n : Word} {k : List Byte → ResultData} {d : ResultData}
    (h : n.toNat ≤ s.rxbuf.length → 2 ≤ n.toNat → k (s.rxbuf.take n.toNat) = d) :
    s.withPrefix n k =
      if s.rxbuf.length < n.toNat then { s with result := some ⟨.invalidArgument, .operand (.value n)⟩ }
      else if n.toNat < 2 then { s with result := some ⟨.framingError, .length n.toNat⟩ }
      else { s with result := some ⟨.ok, d⟩ } := by
  rcases s.withPrefix_cases n k with ⟨hlong, heq⟩ | ⟨hle, hshort, heq⟩ | ⟨hle, htwo, heq⟩
  · rw [heq, if_pos hlong]
    rfl
  · rw [heq, if_neg (by omega), if_pos hshort]
    rfl
  · rw [heq, if_neg (by omega), if_neg (by omega), h hle htwo]
    rfl

/-- The bytes summed for the checksum of `RXBUF[0:n]` are `RXBUF[0:n-1]`. -/
theorem cksum_take {s : List Byte} {n : Nat} (hn : n ≤ s.length) : cksum (s.take n) = -(sum8 (s.take (n - 1))) := by
  rw [cksum, List.dropLast_eq_take, List.take_take, List.length_take_of_le hn, Nat.min_eq_left (Nat.sub_le n 1)]

/-- Settles O39: the range checks, then the checksum in the spec's form. -/
theorem checksumAnswersByte : Obligations.ChecksumAnswersByte := by
  obtain ⟨-, -, -, -, -, -, -, -, -, -, -, -, hselect, -⟩ := selectCodesDecode
  refine ⟨hselect, fun n s => congrArg Host.Outcome.next (withPrefix_eq fun hle _ => ?_)⟩
  rw [cksum_take hle, byte_neg_eq]

/-- Settles O40: the range checks, then the bit by R92. -/
theorem validateAnswersBit : Obligations.ValidateAnswersBit := by
  obtain ⟨-, -, -, -, -, -, -, -, -, -, -, -, -, hselect, -⟩ := selectCodesDecode
  refine ⟨hselect, fun n s => congrArg Host.Outcome.next (withPrefix_eq fun hle htwo => congrArg ResultData.bit ?_)⟩
  have hne : s.rxbuf.take n.toNat ≠ [] := List.ne_nil_of_length_pos (by rw [List.length_take_of_le hle]; omega)
  by_cases hsum : sum8 (s.rxbuf.take n.toNat) = 0
  · rw [if_pos hsum, (valid_iff_sum8 hne).mpr hsum]
    rfl
  · rw [if_neg hsum, Bool.eq_false_iff.mpr (mt (valid_iff_sum8 hne).mp hsum)]
    rfl

/-! ## The fields of a frame -/

theorem splitCommand_concat (m l c k : Byte) (pay : List Byte) :
    splitCommand ([m, l, c] ++ pay ++ [k]) = some ⟨m, l, c, pay, k⟩ := by
  cases pay with
  | nil => rfl
  | cons b pay =>
    change some (⟨m, l, c, (b :: pay ++ [k]).dropLast, (b :: pay ++ [k]).getLastD b⟩ : CommandFields) = _
    rw [List.dropLast_concat, List.getLastD_concat]

theorem splitReply_concat (m l k : Byte) (pay : List Byte) : splitReply ([m, l] ++ pay ++ [k]) = some ⟨m, l, pay, k⟩ := by
  simp [splitReply]

theorem splitCommand_eq_none_iff (f : List Byte) : splitCommand f = none ↔ f.length < 4 := by
  match f with
  | [] | [_] | [_, _] | [_, _, _] => simp [splitCommand]
  | _ :: _ :: _ :: _ :: _ => simp [splitCommand]

theorem splitReply_eq_none_iff (f : List Byte) : splitReply f = none ↔ f.length < 2 := by
  match f with
  | [] | [_] => simp [splitReply]
  | _ :: _ :: _ => simp [splitReply]

/-- Settles O52. -/
theorem splitNamesFields : Obligations.SplitNamesFields :=
  ⟨splitCommand_concat, splitReply_concat, fun _ _ => rfl, fun f => ⟨splitCommand_eq_none_iff f, splitReply_eq_none_iff f⟩⟩

end Sys2Proof.Proofs

/-! PROOFS. The packet extractor (41_extractor.md): what `extract` answers on noise, on a bare byte and on a reply marker, the laws X1 to
X3 of R108 and the bounds of R107, and the operations RXPUSH, EXTRACT, RXDROP and RXFLUSH. -/

namespace Sys2Proof.Proofs

open Sys2Proof Sys2Proof.Machine

/-! ## What the extractor answers -/

theorem isRecognised_of_isBare (p : Params) {b : Byte} (hb : isBare b = true) : isRecognised p b = true := by
  rw [isRecognised, hb, Bool.true_or]

theorem isRecognised_of_isReplyMarker {p : Params} {m : Byte} (hm : isReplyMarker p m = true) : isRecognised p m = true := by
  rw [isRecognised, hm, Bool.or_true]

/-- R105, R107(d): the noise before the first recognised byte, or before the end, is discarded whole. -/
theorem extract_of_noise {p : Params} {noise tl : List Byte} (hne : noise ≠ []) (hnoise : ∀ b ∈ noise, isRecognised p b = false)
    (hnext : ∀ b ∈ tl.head?, isRecognised p b = true) : extract p (noise ++ tl) = .discard noise.length := by
  have hnone : noise.findIdx? (isRecognised p) = none := List.findIdx?_eq_none_iff.mpr hnoise
  have hfirst := List.findIdx?_append (xs := noise) (ys := tl) (p := isRecognised p)
  rw [hnone, Option.none_or] at hfirst
  obtain ⟨g, noise, rfl⟩ := List.exists_cons_of_ne_nil hne
  cases tl with
  | nil => simp only [List.append_nil, extract, hnone]
  | cons b tl =>
    have hb : isRecognised p b = true := hnext b rfl
    rw [List.findIdx?_cons, if_pos hb, Option.map_some, Nat.zero_add] at hfirst
    simp only [List.cons_append] at hfirst ⊢
    simp only [extract, hfirst, List.length_cons]

/-- R107(c): of a reply frame only the marker is there. -/
theorem extract_of_lone_replyMarker (c : Config) {m : Byte} (hm : isReplyMarker c.toParams m = true) :
    extract c.toParams [m] = .incomplete := by
  simp [extract, List.findIdx?_cons, isRecognised_of_isReplyMarker hm, isBare_of_isReplyMarker c hm]

/-- R107(b): a reply frame is complete when the bytes it declares are there. -/
theorem extract_of_replyMarker (c : Config) {m : Byte} (hm : isReplyMarker c.toParams m = true) (len : Byte) (body : List Byte) :
    extract c.toParams (m :: len :: body) =
      if len.toNat ≤ (m :: len :: body).length then .complete len.toNat else .incomplete := by
  simp [extract, List.findIdx?_cons, isRecognised_of_isReplyMarker hm, isBare_of_isReplyMarker c hm]

/-- A buffer whose item is discarded begins with that much noise. -/
theorem noise_of_extract_discard {p : Params} {B : List Byte} {n : Nat} (h : extract p B = .discard n) :
    1 ≤ n ∧ n ≤ B.length ∧ ∀ b ∈ B.take n, isRecognised p b = false := by
  rcases extract_cases p B with ⟨hx, -⟩ | ⟨k, hx, hk⟩ | ⟨_, _, -, -, hx⟩ | ⟨_, _, _, -, -, -, -, hx⟩ <;> rw [hx] at h
  · cases h
  · obtain rfl := Extraction.discard.inj h
    exact hk
  · cases h
  · cases h

/-- A buffer whose item is complete begins with a bare byte, or with a reply marker and the length byte the outcome reports. -/
theorem item_of_extract_complete {p : Params} {B : List Byte} {n : Nat} (h : extract p B = .complete n) :
    (∃ b tl, B = b :: tl ∧ isBare b = true ∧ n = 1) ∨
    ∃ m len body, B = m :: len :: body ∧ isReplyMarker p m = true ∧ len.toNat ≤ B.length ∧ n = len.toNat := by
  rcases extract_cases p B with ⟨hx, -⟩ | ⟨_, hx, -⟩ | ⟨b, tl, hB, hb, hx⟩ | ⟨m, len, body, hB, hm, -, hlen, hx⟩ <;> rw [hx] at h
  · cases h
  · cases h
  · exact .inl ⟨b, tl, hB, hb, (Extraction.complete.inj h).symm⟩
  · exact .inr ⟨m, len, body, hB, hm, hlen, (Extraction.complete.inj h).symm⟩

/-- A recognised byte at offset 0 is no noise. -/
theorem extract_recognised_cons_ne_discard {p : Params} {b : Byte} (hb : isRecognised p b = true) (tl : List Byte) (n : Nat) :
    extract p (b :: tl) ≠ .discard n := by
  intro h
  obtain ⟨hpos, -, hnoise⟩ := noise_of_extract_discard h
  have hmem : b ∈ (b :: tl).take n := by
    rw [List.take_cons hpos]
    exact List.mem_cons_self
  simp [hnoise b hmem] at hb

/-- Bytes with a recognised one among them are noise, the first recognised byte, and the rest. -/
theorem exists_noise_cons_of_recognised {p : Params} {B : List Byte} (h : ∃ b ∈ B, isRecognised p b = true) :
    ∃ noise b tl, B = noise ++ b :: tl ∧ isRecognised p b = true ∧ ∀ x ∈ noise, isRecognised p x = false := by
  have hsome : (B.find? (isRecognised p)).isSome = true := List.find?_isSome.mpr h
  obtain ⟨b, hfind⟩ := Option.isSome_iff_exists.mp hsome
  obtain ⟨hb, noise, tl, hB, hnoise⟩ := List.find?_eq_some_iff_append.mp hfind
  exact ⟨noise, b, tl, hB, hb, fun x hx => by simpa using hnoise x hx⟩

/-! ## The laws of the extractor (R108) -/

/-- A bare byte or a whole reply frame at offset 0 is complete, whatever follows it, and its first byte is recognised. -/
theorem extract_item_append (c : Config) {F : List Byte}
    (hF : (∃ b, F = [b] ∧ isBare b = true) ∨
      ∃ m len body, F = m :: len :: body ∧ isReplyMarker c.toParams m = true ∧ len.toNat = F.length) (T : List Byte) :
    extract c.toParams (F ++ T) = .complete F.length ∧ ∀ b ∈ (F ++ T).head?, isRecognised c.toParams b = true := by
  rcases hF with ⟨b, rfl, hb⟩ | ⟨m, len, body, rfl, hm, hlen⟩
  · refine ⟨extract_of_isBare _ hb T, ?_⟩
    rintro _ ⟨⟩
    exact isRecognised_of_isBare _ hb
  · refine ⟨?_, ?_⟩
    · rw [List.cons_append, List.cons_append, extract_of_replyMarker c hm, if_pos, hlen]
      simp [hlen]
    · rintro _ ⟨⟩
      exact isRecognised_of_isReplyMarker hm

/-- X2 for `Complete`: the first byte, or the first two, decide. -/
theorem extract_append_of_complete (c : Config) {B : List Byte} {n : Nat} (h : extract c.toParams B = .complete n) (T : List Byte) :
    extract c.toParams (B ++ T) = .complete n := by
  rcases item_of_extract_complete h with ⟨b, tl, rfl, hb, rfl⟩ | ⟨m, len, body, rfl, hm, hlen, rfl⟩
  · exact extract_of_isBare _ hb _
  · rw [List.cons_append, List.cons_append, extract_of_replyMarker c hm, if_pos]
    simp only [List.length_cons, List.length_append] at hlen ⊢
    omega

/-- X2 for `Discard`: the first recognised byte ends the noise, whatever follows it. -/
theorem extract_append_of_discard {p : Params} {B : List Byte} {n : Nat} (h : extract p B = .discard n)
    (hrec : ∃ b ∈ B, isRecognised p b = true) (T : List Byte) : extract p (B ++ T) = .discard n := by
  obtain ⟨noise, b, tl, rfl, hb, hnoise⟩ := exists_noise_cons_of_recognised hrec
  have hne : noise ≠ [] := by
    rintro rfl
    exact extract_recognised_cons_ne_discard hb tl n h
  have hends (rest : List Byte) : extract p (noise ++ b :: rest) = .discard noise.length :=
    extract_of_noise hne hnoise (by rintro _ ⟨⟩; exact hb)
  rw [List.append_assoc, List.cons_append, hends, ← hends tl, h]

/-- R107(b): what is complete is there, and a length byte declares at most 255. -/
theorem extract_complete_bounds {p : Params} {B : List Byte} {n : Nat} (h : extract p B = .complete n) :
    B ≠ [] ∧ n ≤ B.length ∧ n ≤ 255 := by
  rcases item_of_extract_complete h with ⟨b, tl, rfl, -, rfl⟩ | ⟨m, len, body, rfl, -, hlen, rfl⟩
  · simp
  · exact ⟨List.cons_ne_nil _ _, hlen, Nat.le_of_lt_succ len.isLt⟩

theorem length_drop_lt {B : List Byte} {n : Nat} (hn : 1 ≤ n) (hB : B ≠ []) : (B.drop n).length < B.length := by
  have hpos := List.length_pos_of_ne_nil hB
  rw [List.length_drop]
  omega

/-- Settles O54: X1 by what noise and an item at offset 0 answer, X2 because the bytes that decide stay where they are, X3 because each
outcome removes at least one byte of a buffer that holds one. -/
theorem extractLaws : Obligations.ExtractLaws := by
  refine ⟨fun c G F T hne hnoise hF => ?_, fun c B T => ⟨fun n h => ?_, fun n h hrec => ?_⟩, fun c B => ⟨fun n h => ?_, fun n h => ?_⟩⟩
  · obtain ⟨hitem, hhead⟩ := extract_item_append c hF T
    rw [List.append_assoc]
    exact ⟨extract_of_noise hne hnoise hhead, hitem⟩
  · exact extract_append_of_complete c h T
  · exact extract_append_of_discard h hrec T
  · obtain ⟨hpos, hle, -⟩ := noise_of_extract_discard h
    exact length_drop_lt hpos (List.ne_nil_of_length_pos (by omega))
  · obtain ⟨hB, -, -⟩ := extract_complete_bounds h
    exact length_drop_lt (le_max_right n 1) hB

/-- Settles O55. -/
theorem extractBounds : Obligations.ExtractBounds := by
  refine fun c B => ⟨fun n h => ?_, fun n h => ?_, rfl, fun m hm => extract_of_lone_replyMarker c hm⟩
  · obtain ⟨hpos, hle, -⟩ := noise_of_extract_discard h
    exact ⟨hpos, hle⟩
  · obtain ⟨-, hle, hbyte⟩ := extract_complete_bounds h
    exact ⟨hle, hbyte⟩

/-! ## RXPUSH, EXTRACT, RXDROP and RXFLUSH -/

theorem rxFull_iff (s : State) : s.rxFull = true ↔ s.cfg.rxbufCap = some s.rxbuf.length := by
  rw [State.rxFull, atCapacity, beq_iff_eq]

/-- R109: the byte is stored where the buffer is below its capacity. -/
theorem exec_rxpush (b : Byte) (s : State) : exec (.rxpush b) s = .next
    (if s.cfg.rxbufCap = some s.rxbuf.length then { s with result := some ⟨.rxFull, .nothing⟩ }
     else { s with rxbuf := s.rxbuf ++ [b], result := some ⟨.ok, .nothing⟩ }) :=
  congrArg Host.Outcome.next (if_congr (rxFull_iff s) rfl rfl)

/-- Settles O36: an unbounded buffer is below its capacity at every length. -/
theorem rxpushAppendsByte : Obligations.RxpushAppendsByte := by
  obtain ⟨-, -, -, -, -, -, -, -, -, hselect, -⟩ := selectCodesDecode
  refine ⟨hselect, exec_rxpush, fun b s hcap => ?_⟩
  have hbelow : s.cfg.rxbufCap ≠ some s.rxbuf.length := by simp [hcap]
  rw [exec_rxpush, if_neg hbelow]

/-- Settles O37: the look is `State.ret` on the same state. -/
theorem extractAnswersOutcome : Obligations.ExtractAnswersOutcome := by
  obtain ⟨-, -, -, -, -, -, -, -, -, -, hselect, -⟩ := selectCodesDecode
  exact ⟨hselect, fun _ => rfl⟩

/-- R111: a count above what is held is refused, else that many bytes leave at the head. -/
theorem exec_rxdrop (n : Word) (s : State) : exec (.rxdrop n) s = .next
    (if s.rxbuf.length < n.toNat then { s with result := some ⟨.invalidArgument, .operand (.value n)⟩ }
     else { s with rxbuf := s.rxbuf.drop n.toNat, result := some ⟨.ok, .nothing⟩ }) :=
  congrArg Host.Outcome.next (if_congr Iff.rfl rfl rfl)

/-- Settles O38. -/
theorem rxdropRemovesOldest : Obligations.RxdropRemovesOldest := by
  obtain ⟨-, -, -, -, -, -, -, -, -, -, -, hselect, -⟩ := selectCodesDecode
  exact ⟨hselect, exec_rxdrop⟩

/-- Settles O41: RXFLUSH writes the buffer alone. -/
theorem rxflushEmptiesBuffer : Obligations.RxflushEmptiesBuffer := by
  obtain ⟨-, -, -, -, -, -, -, -, -, -, -, -, -, -, -, hselect, -⟩ := selectCodesDecode
  exact ⟨hselect, fun _ => rfl⟩

end Sys2Proof.Proofs

/-! PROOFS. The queue and the arbiter (42_queue.md): NOP, ENQUEUE, POPNEXT, REPLYDONE, ISIDLE and CLEARQ, each with its outcomes, and the
laws Q2 to Q4 of R129 on the tracker between two releases and on the count of the queue. -/

namespace Sys2Proof.Proofs

open Sys2Proof Sys2Proof.Machine

/-! ## NOP, ENQUEUE and REPLYDONE -/

/-- Settles O27: the all-zero word has select code 0 and no bit of `RSV` set. -/
theorem nopAnswersOk : Obligations.NopAnswersOk := by
  obtain ⟨-, hselect, -⟩ := selectCodesDecode
  exact ⟨hselect, hselect 0 (by decide) (by decide), fun _ => rfl⟩

theorem queueFull_iff (s : State) : s.queueFull = true ↔ s.cfg.qdepth = some s.q.length := by
  rw [State.queueFull, atCapacity, beq_iff_eq]

/-- Settles O31: the operand checks ENQUEUE shares with ENCODE, then its own tests of the value and of the queue, then the entry. -/
theorem enqueueAppendsEncodedFrame : Obligations.EnqueueAppendsEncodedFrame := by
  obtain ⟨-, -, -, -, hselect, -⟩ := selectCodesDecode
  refine ⟨hselect, fun cmd alen W s hcmd => ?_, fun c alen W s => ?_⟩
  · exact congrArg Host.Outcome.next (withCommand_of_ofIdx_none ((ofIdx_eq_none_iff cmd).mpr hcmd) s alen _)
  · refine congrArg Host.Outcome.next ((withCommand_cmdIdx s c alen _).trans ?_)
    exact if_congr Iff.rfl rfl (if_congr Iff.rfl rfl (if_congr (queueFull_iff s) rfl rfl))

/-- Settles O33: REPLYDONE writes the tracker alone, whatever it held. -/
theorem replydoneFreesTracker : Obligations.ReplydoneFreesTracker := by
  obtain ⟨-, -, -, -, -, -, hselect, -⟩ := selectCodesDecode
  exact ⟨hselect, fun _ => rfl⟩

/-! ## POPNEXT -/

theorem exec_popnext_of_outstanding {s : State} {c : TxCommand} (ho : s.outstanding = some c) :
    exec .popnext s = .next { s with result := some ⟨.blocked, .command (some c)⟩ } := by
  simp only [exec, execPopnext, ho, State.raise]

theorem exec_popnext_of_empty {s : State} (ho : s.outstanding = none) (hq : s.q = []) :
    exec .popnext s = .next { s with result := some ⟨.empty, .nothing⟩ } := by
  simp only [exec, execPopnext, ho, hq, State.raise]

theorem exec_popnext_of_head {s : State} {e : Entry} {tl : List Entry} (ho : s.outstanding = none) (hq : s.q = e :: tl) :
    exec .popnext s = .next { s with q := tl, outstanding := some e.cmd, result := some ⟨.ok, .released e.cmd e.bytes⟩ } := by
  simp only [exec, execPopnext, ho, hq, State.release, State.ret, List.tail_cons]

/-- Settles O32, outcome by outcome. -/
theorem popnextReleasesHead : Obligations.PopnextReleasesHead := by
  obtain ⟨-, -, -, -, -, hselect, -⟩ := selectCodesDecode
  exact ⟨hselect, fun _ _ => exec_popnext_of_outstanding, fun _ => exec_popnext_of_empty, fun _ _ _ _ => exec_popnext_of_head⟩

/-- What POPNEXT can answer, and when: `Blocked`, `Empty`, or OK with the head of the queue, which becomes the outstanding command. -/
theorem exec_popnext_cases {s t : State} (ht : exec .popnext s = .next t) :
    (∃ c, s.outstanding = some c ∧ t.result = some ⟨.blocked, .command (some c)⟩) ∨
    (s.outstanding = none ∧ s.q = [] ∧ t.result = some ⟨.empty, .nothing⟩) ∨
    ∃ e, s.outstanding = none ∧ s.q = e :: t.q ∧ t.outstanding = some e.cmd ∧ t.result = some ⟨.ok, .released e.cmd e.bytes⟩ := by
  cases ho : s.outstanding with
  | some c =>
    obtain rfl := Host.Outcome.next.inj ((exec_popnext_of_outstanding ho).symm.trans ht)
    exact .inl ⟨c, rfl, rfl⟩
  | none =>
    cases hq : s.q with
    | nil =>
      obtain rfl := Host.Outcome.next.inj ((exec_popnext_of_empty ho hq).symm.trans ht)
      exact .inr (.inl ⟨rfl, rfl, rfl⟩)
    | cons e tl =>
      obtain rfl := Host.Outcome.next.inj ((exec_popnext_of_head ho hq).symm.trans ht)
      exact .inr (.inr ⟨e, rfl, rfl, rfl, rfl⟩)

/-! ## ISIDLE and CLEARQ -/

theorem stIdle_iff (s : State) : s.stIdle = 1 ↔ s.q = [] ∧ s.outstanding = none := by
  rw [State.stIdle, ← List.length_eq_zero_iff, ← idle_iff]
  cases s.idle <;> decide

/-- Settles O34: the bit is `stIdle_iff`, which reads neither the buffer nor anything else but the queue and the tracker. -/
theorem isidleReportsQuiescence : Obligations.IsidleReportsQuiescence := by
  obtain ⟨-, -, -, -, -, -, -, hselect, -⟩ := selectCodesDecode
  refine ⟨hselect, fun s => ⟨rfl, stIdle_iff s, fun _ => rfl⟩, fun s t ht => ?_, fun s c hq ho => ?_⟩
  · obtain rfl := Host.Outcome.next.inj ht
    exact (stIdle_iff _).mpr ⟨rfl, rfl⟩
  · simp [State.stIdle, State.idle, hq, ho]

/-- Settles O35: on an idle SFC the two pieces CLEARQ empties are empty already. -/
theorem clearqAbandonsBacklog : Obligations.ClearqAbandonsBacklog := by
  obtain ⟨-, -, -, -, -, -, -, -, hselect, -⟩ := selectCodesDecode
  have hclearq (s : State) : exec .clearq s = .next { s with q := [], outstanding := none, result := some ⟨.ok, .nothing⟩ } := rfl
  refine ⟨hselect, hclearq, fun s hidle => ?_⟩
  obtain ⟨hq, ho⟩ := (stIdle_iff s).mp hidle
  rw [hclearq, ← hq, ← ho]

/-! ## What a step releases and accepts -/

/-- The result is OK, with any data. -/
def answersOk (r : Option Result) : Prop := ∃ d, r = some ⟨.ok, d⟩

/-- A POPNEXT that answers OK releases one frame, and sets the tracker it found free; any other releases none. -/
theorem released_of_popnext {s : State} (hi : s.nextOp = some .popnext) :
    (s.released = [] ∧ ¬ answersOk s.next.result) ∨
    (s.released.length = 1 ∧ answersOk s.next.result ∧ s.outstanding = none ∧ s.next.outstanding ≠ none) := by
  rcases exec_popnext_cases (State.exec_of_nextOp hi) with ⟨c, -, hr⟩ | ⟨-, -, hr⟩ | ⟨e, ho, -, hset, hr⟩
  · exact .inl (by simp [State.released, answersOk, hi, hr])
  · exact .inl (by simp [State.released, answersOk, hi, hr])
  · exact .inr ⟨by simp [State.released, hi, hr], ⟨_, hr⟩, ho, by simp [hset]⟩

/-- The two outcomes of ENQUEUE, told apart by the result: an error and the queue as it was, or OK and one more entry at the tail. -/
theorem exec_enqueue_cases {cmd : BitVec 4} {alen : BitVec 3} {value : Word} {s t : State}
    (ht : exec (.enqueue cmd alen value) s = .next t) :
    ¬ answersOk t.result ∨ t.result = some ⟨.ok, .nothing⟩ ∧ ∃ e, t.q = s.q ++ [e] := by
  obtain ⟨-, hbad, hcommand⟩ := enqueueAppendsEncodedFrame
  cases hcmd : TxCommand.ofIdx cmd with
  | none =>
    obtain rfl := Host.Outcome.next.inj ((hbad cmd alen value s ((ofIdx_eq_none_iff cmd).mp hcmd)).symm.trans ht)
    exact .inl (by simp [answersOk])
  | some c =>
    obtain rfl := cmdIdx_of_ofIdx hcmd
    obtain rfl := Host.Outcome.next.inj ((hcommand c alen value s).symm.trans ht)
    split_ifs
    · exact .inl (by simp [answersOk])
    · exact .inl (by simp [answersOk])
    · exact .inl (by simp [answersOk])
    · exact .inr ⟨rfl, _, rfl⟩

/-- An ENQUEUE that answers OK accepts one entry, any other none. -/
theorem accepted_of_enqueue {s : State} (hi : s.nextOp.any isEnqueue = true) :
    (s.accepted = [] ∧ ¬ answersOk s.next.result) ∨ (s.accepted.length = 1 ∧ answersOk s.next.result) := by
  obtain ⟨i, hop, henq⟩ := (Option.any_eq_true _ _).mp hi
  obtain ⟨cmd, alen, value, rfl⟩ := eq_enqueue henq
  rcases exec_enqueue_cases (State.exec_of_nextOp hop) with hr | ⟨hr, e, hq⟩
  · exact .inl ⟨if_neg fun ⟨_, hok⟩ => hr ⟨_, hok⟩, hr⟩
  · simp only at hq
    exact .inr ⟨by simp [State.accepted, hi, hr, hq], _, hr⟩

theorem popnext_of_released {s : State} (h : s.released ≠ []) : s.nextOp = some .popnext := by
  by_contra hi
  exact h (released_of_not_popnext hi)

theorem enqueue_of_accepted {s : State} (h : s.accepted ≠ []) : s.nextOp.any isEnqueue = true := by
  by_contra hi
  exact h (accepted_of_not_enqueue (Bool.eq_false_iff.mpr hi))

theorem released_length_le (s : State) : s.released.length ≤ 1 := by
  by_cases hi : s.nextOp = some .popnext
  · rcases released_of_popnext hi with ⟨h, -⟩ | ⟨h, -⟩ <;> simp [h]
  · simp [released_of_not_popnext hi]

theorem accepted_length_le (s : State) : s.accepted.length ≤ 1 := by
  by_cases hi : s.nextOp.any isEnqueue = true
  · rcases accepted_of_enqueue hi with ⟨h, -⟩ | ⟨h, -⟩ <;> simp [h]
  · simp [accepted_of_not_enqueue (Bool.eq_false_iff.mpr hi)]

/-- No step both releases and accepts. -/
theorem released_nil_or_accepted_nil (s : State) : s.released = [] ∨ s.accepted = [] := by
  by_cases hi : s.nextOp = some .popnext
  · exact .inr (accepted_of_not_enqueue (by simp [hi, isEnqueue]))
  · exact .inl (released_of_not_popnext hi)

/-! ## The laws of R129 -/

/-- From a command outstanding to a free tracker there is a step that frees it, one of those `TrackerChangesOnlyAsListed` lists. -/
theorem exists_freesTracker {s : State} {k : Nat} (hset : s.outstanding ≠ none) (hfree : (s.nth k).outstanding = none) :
    ∃ j < k, (s.nth j).freesTracker = true := by
  induction k generalizing s with
  | zero => exact absurd hfree hset
  | succ k ih =>
    by_cases hnext : s.next.outstanding = none
    · obtain ⟨t, ht⟩ := step_completes s
      rw [next_of_step ht] at hnext
      rcases trackerChangesOnlyAsListed s t ht (fun h => hset (h.symm.trans hnext)) with ⟨h, -⟩ | ⟨-, -, hfrees⟩
      · exact absurd h hset
      · exact ⟨0, Nat.succ_pos k, hfrees⟩
    · obtain ⟨j, hj, hfrees⟩ := ih hnext hfree
      exact ⟨j + 1, Nat.succ_lt_succ hj, hfrees⟩

/-- A step that releases a frame finds the tracker free and leaves it set. -/
theorem tracker_of_released {s : State} (h : s.released ≠ []) : s.outstanding = none ∧ s.next.outstanding ≠ none := by
  rcases released_of_popnext (popnext_of_released h) with ⟨hnil, -⟩ | ⟨-, -, hfree, hset⟩
  · exact absurd hnil h
  · exact ⟨hfree, hset⟩

/-- Settles O21: the first release leaves the tracker set, the second finds it free, and a step between them freed it. -/
theorem trackerFreedBetweenReleases : Obligations.TrackerFreedBetweenReleases := by
  intro s k hfirst hsecond
  obtain ⟨-, hset⟩ := tracker_of_released hfirst
  obtain ⟨hfree, -⟩ := tracker_of_released hsecond
  obtain ⟨j, hj, hfrees⟩ := exists_freesTracker (s := s.next) (k := k) hset hfree
  exact ⟨j + 1, by omega, hj, hfrees⟩

/-- Q4: where nothing clears the queue, its length is kept by what is released and accepted. -/
theorem stQcount_next {s : State} (hclear : s.clearsQueue = false) :
    s.next.stQcount + s.released.length = s.stQcount + s.accepted.length := by
  have h := congrArg List.length (released_append_next_q_eq hclear)
  simp only [List.length_append] at h
  simp only [State.stQcount]
  omega

theorem clearsQueue_of_enqueue {s : State} (hi : s.nextOp.any isEnqueue = true) : s.clearsQueue = false := by
  obtain ⟨i, hop, henq⟩ := (Option.any_eq_true _ _).mp hi
  obtain ⟨cmd, alen, value, rfl⟩ := eq_enqueue henq
  simp [State.clearsQueue, hop]

/-- A successful ENQUEUE lengthens the queue by one. -/
theorem count_of_enqueue_ok {s : State} (hi : s.nextOp.any isEnqueue = true) (hok : answersOk s.next.result) :
    s.next.stQcount = s.stQcount + 1 ∧ s.accepted.length = 1 := by
  rcases accepted_of_enqueue hi with ⟨-, hno⟩ | ⟨hone, -⟩
  · exact absurd hok hno
  · have hcount := stQcount_next (clearsQueue_of_enqueue hi)
    have hrel : s.released = [] := (released_nil_or_accepted_nil s).resolve_right (List.ne_nil_of_length_eq_add_one hone)
    exact ⟨by simpa [hrel, hone] using hcount, hone⟩

/-- A successful POPNEXT shortens the queue by one. -/
theorem count_of_popnext_ok {s : State} (hi : s.nextOp = some .popnext) (hok : answersOk s.next.result) :
    s.next.stQcount + 1 = s.stQcount ∧ s.released.length = 1 := by
  rcases released_of_popnext hi with ⟨-, hno⟩ | ⟨hone, -⟩
  · exact absurd hok hno
  · have hcount := stQcount_next (s := s) (by simp [State.clearsQueue, hi])
    have hacc : s.accepted = [] := (released_nil_or_accepted_nil s).resolve_left (List.ne_nil_of_length_eq_add_one hone)
    exact ⟨by simpa [hacc, hone] using hcount, hone⟩

/-- Where nothing clears the queue, a count that changes is the work of an ENQUEUE or a POPNEXT that answers OK. -/
theorem cause_of_count_change {s : State} (hclear : s.clearsQueue = false) (hne : s.next.stQcount ≠ s.stQcount) :
    (s.nextOp.any isEnqueue = true ∨ s.nextOp = some .popnext) ∧ answersOk s.next.result := by
  have hcount := stQcount_next hclear
  by_cases hrel : s.released = []
  · have hacc : s.accepted ≠ [] := fun h => hne (by simpa [hrel, h] using hcount)
    have hi := enqueue_of_accepted hacc
    rcases accepted_of_enqueue hi with ⟨h, -⟩ | ⟨-, hok⟩
    · exact absurd h hacc
    · exact ⟨.inl hi, hok⟩
  · have hi := popnext_of_released hrel
    rcases released_of_popnext hi with ⟨h, -⟩ | ⟨-, hok, -⟩
    · exact absurd h hrel
    · exact ⟨.inr hi, hok⟩

/-- Q3: POPNEXT answers `Empty` exactly where the SFC is idle. -/
theorem stIdle_iff_popnext_empty {s t : State} (ht : exec .popnext s = .next t) :
    s.stIdle = 1 ↔ t.result = some ⟨.empty, .nothing⟩ := by
  rw [stIdle_iff]
  rcases exec_popnext_cases ht with ⟨c, ho, hr⟩ | ⟨ho, hq, hr⟩ | ⟨e, -, hq, -, hr⟩
  · simp [ho, hr]
  · simp [ho, hq, hr]
  · simp [hq, hr]

/-- Settles O22, clause by clause. -/
theorem queueCountLaws : Obligations.QueueCountLaws := by
  refine ⟨fun s t d ht hi hr => ?_, fun s t d ht hi hr => ?_, fun s t ht hclear hne => ?_, fun s t ht hclear => ?_,
    fun s t => stIdle_iff_popnext_empty⟩
  all_goals obtain rfl := next_of_step ht
  · exact count_of_enqueue_ok hi ⟨d, hr⟩
  · exact count_of_popnext_ok hi ⟨d, hr⟩
  · exact cause_of_count_change hclear hne
  · refine ⟨stQcount_next hclear, ?_⟩
    rcases released_nil_or_accepted_nil s with h | h
    · simpa [h] using accepted_length_le s
    · simpa [h] using released_length_le s

end Sys2Proof.Proofs

/-! PROOFS. The receive pipeline (43_receive.md): the branches of RXSTEP (R141 to R148), what they leave unchanged (R157), draining
(R156), the hand-driven sequence (R155) and the payload layouts for the consumer (R150 to R152). -/

namespace Sys2Proof.Proofs

open Sys2Proof Sys2Proof.Machine

/-! ## The branches of RXSTEP -/

theorem exec_rxstep (s : State) : exec .rxstep s = .next s.receive := rfl

theorem receive_of_incomplete {s : State} (hx : extract s.cfg.toParams s.rxbuf = .incomplete) : s.receive = s.ret (.event .wait) := by
  simp only [State.receive, hx]

theorem receive_of_discard {s : State} {n : Nat} (hx : extract s.cfg.toParams s.rxbuf = .discard n) :
    s.receive = (s.rxRemove n).ret (.event (.discarded n)) := by
  simp only [State.receive, hx]

/-- R105, R141: nothing held, a lone reply marker, or a reply frame that declares more bytes than are held. -/
theorem extract_of_unfinished (c : Config) {B : List Byte}
    (hB : B = [] ∨ (∃ m, B = [m] ∧ isReplyMarker c.toParams m = true) ∨
      ∃ m len body, B = m :: len :: body ∧ isReplyMarker c.toParams m = true ∧ B.length < len.toNat) :
    extract c.toParams B = .incomplete := by
  rcases hB with rfl | ⟨m, rfl, hm⟩ | ⟨m, len, body, rfl, hm, hlen⟩
  · rfl
  · exact extract_of_lone_replyMarker c hm
  · rw [extract_of_replyMarker c hm, if_neg (by omega)]

/-- Settles O42: the extractor finds the item incomplete, or the noise and nothing else. -/
theorem rxstepWaitsOrDiscards : Obligations.RxstepWaitsOrDiscards := by
  refine ⟨fun s hB => ?_, fun s noise tl hB hne hnoise hnext => ?_⟩
  · exact congrArg Host.Outcome.next (receive_of_incomplete (extract_of_unfinished s.cfg hB))
  · have hx : extract s.cfg.toParams s.rxbuf = .discard noise.length := by rw [hB, extract_of_noise hne hnoise hnext]
    rw [exec_rxstep, receive_of_discard hx, State.rxRemove, hB, List.drop_left]
    rfl

theorem acceptAck_eq {s : State} {b : Byte} {tl : List Byte} (h : s.rxbuf = b :: tl) :
    s.acceptAck = { s with rxbuf := tl, outstanding := none, result := some ⟨.ok, .event .acked⟩ } := by
  rw [State.acceptAck, State.rxRemove, h]
  rfl

theorem acceptNak_eq {s : State} {b : Byte} {tl : List Byte} (h : s.rxbuf = b :: tl) :
    s.acceptNak = { s with rxbuf := tl, outstanding := none, result := some ⟨.deviceRejected, .command s.outstanding⟩ } := by
  rw [State.acceptNak, State.rxRemove, h]
  rfl

/-- Settles O43: RXSTEP and the row ACK are both the branch `ACKED`. -/
theorem ackClearsTracker : Obligations.AckClearsTracker := by
  intro s tl h
  rw [← acceptAck_eq h]
  exact ⟨congrArg Host.Outcome.next (receive_of_ack h), rfl⟩

/-- Settles O44: RXSTEP and the row NAK are both the branch `DeviceRejected`, which leaves the tracker free for POPNEXT. -/
theorem nakRejectsAndClearsTracker : Obligations.NakRejectsAndClearsTracker := by
  intro s tl h t
  have ht : s.acceptNak = t := acceptNak_eq h
  refine ⟨?_, congrArg Host.Outcome.next ht, fun e q hq => exec_popnext_of_head rfl hq⟩
  rw [exec_rxstep, receive_of_nak h, ht]

/-- R145: the marker of a frame that declares 0 or 1 bytes. -/
theorem receive_of_short {s : State} {m len : Byte} {body : List Byte} (h : s.rxbuf = m :: len :: body)
    (hm : isReplyMarker s.cfg.toParams m = true) (hlen : len.toNat < 2) : s.receive = s.rejectShort len.toNat := by
  have hx : extract s.cfg.toParams s.rxbuf = .complete len.toNat := by
    rw [h, extract_of_replyMarker s.cfg hm, if_pos (by simp only [List.length_cons]; omega)]
  obtain ⟨hack, hnak⟩ : s.rxbuf.head? ≠ some ackByte ∧ s.rxbuf.head? ≠ some nakByte := by
    simpa [h, isBare] using isBare_of_isReplyMarker s.cfg hm
  simp only [State.receive, hx, if_neg hack, if_neg hnak, if_pos hlen]

/-- Settles O45: the branch `FramingError` removes the marker. -/
theorem shortDeclaredLengthIsFramingError : Obligations.ShortDeclaredLengthIsFramingError := by
  intro s m len body h hm hlen
  rw [exec_rxstep, receive_of_short h hm hlen, State.rejectShort, State.rxRemove, h]
  rfl

/-! ## The verdict on a reply frame -/

section
variable {s : State} {f tl : List Byte}

theorem acceptReply_of_bad_sum (h : s.rxbuf = f ++ tl) (hf : f ≠ []) (hsum : sum8 f ≠ 0) :
    s.acceptReply f = { s with rxbuf := tl, result := some ⟨.checksumError, .frame f⟩ } := by
  have hinvalid : valid f ≠ true := mt (valid_iff_sum8 hf).mp hsum
  rw [State.acceptReply, if_neg hinvalid, State.rxRemove, h, List.drop_left]
  rfl

theorem acceptReply_of_unexpected_length (h : s.rxbuf = f ++ tl) (hf : f ≠ []) (hsum : sum8 f = 0)
    (hlen : expLen s.outstanding ≠ some f.length) :
    s.acceptReply f = { s with rxbuf := tl, result := some ⟨.unexpectedReplyLength, .reply f.length s.outstanding f⟩ } := by
  have hvalid := (valid_iff_sum8 hf).mpr hsum
  rcases s.acceptReply_cases f with ⟨hinvalid, -⟩ | ⟨-, -, heq⟩ | ⟨k, -, hk, hkl, -⟩
  · simp [hvalid] at hinvalid
  · rw [heq, State.rxRemove, h, List.drop_left]
    rfl
  · simp [expLen, hk, hkl] at hlen

theorem acceptReply_of_expected {k : Kind} (h : s.rxbuf = f ++ tl) (hf : f ≠ []) (hsum : sum8 f = 0)
    (hlen : expLen s.outstanding = some f.length) (hk : kindOf s.outstanding = some k) :
    s.acceptReply f = { s with rxbuf := tl, outstanding := none, result := some ⟨.ok, .event (.decoded k f)⟩ } := by
  have hvalid := (valid_iff_sum8 hf).mpr hsum
  rcases s.acceptReply_cases f with ⟨hinvalid, -⟩ | ⟨-, hne, -⟩ | ⟨j, -, hj, -, heq⟩
  · simp [hvalid] at hinvalid
  · exact absurd hlen hne
  · obtain rfl := Option.some.inj (hj.symm.trans hk)
    rw [heq, State.rxRemove, h, List.drop_left]
    rfl

end

/-- The row of a reply frame, with either marker. -/
theorem exec_reply (s : State) (rest : List Byte) (changed : Bool) :
    exec (if changed then Instr.replyChanged rest else Instr.replyUnchanged rest) s =
      .next (s.acceptReply (replyFrame (if changed then s.cfg.markReplyChanged else s.cfg.markReplyUnchanged) rest)) := by
  cases changed <;> rfl

/-- Settles O46: RXSTEP and the row both judge the frame (`receive_of_reply`), and the verdict follows R146, R147 and R148 in order. -/
theorem replyFrameIsJudged : Obligations.ReplyFrameIsJudged := by
  intro s rest tl changed hrest m i len f h
  have hm : isReplyMarker s.cfg.toParams m = true := by cases changed <;> simp [m, isReplyMarker]
  have hi : exec i s = .next (s.acceptReply f) := exec_reply s rest changed
  have hf : f ≠ [] := List.cons_ne_nil _ _
  have hstep : exec .rxstep s = exec i s := by rw [hi, exec_rxstep, receive_of_reply hm hrest h]; rfl
  rw [hi] at hstep ⊢
  exact ⟨hstep, fun hsum => congrArg Host.Outcome.next (acceptReply_of_bad_sum h hf hsum),
    fun hsum hlen => congrArg Host.Outcome.next (acceptReply_of_unexpected_length h hf hsum hlen),
    fun k hsum hlen hk => congrArg Host.Outcome.next (acceptReply_of_expected h hf hsum hlen hk)⟩

/-! ## Progress -/

/-- The result `WAIT` of RXSTEP. -/
def waits (r : Option Result) : Prop := r = some ⟨.ok, .event .wait⟩

theorem not_waits_acceptReply (s : State) (f : List Byte) : ¬ waits (s.acceptReply f).result := by
  rcases s.acceptReply_cases f with ⟨-, h⟩ | ⟨-, -, h⟩ | ⟨k, -, -, -, h⟩ <;> simp [h, waits]

/-- One turn waits for the rest of an incomplete item and leaves the buffer, or consumes at least one byte. -/
theorem receive_waits_or_shortens (s : State) :
    (extract s.cfg.toParams s.rxbuf = .incomplete ∧ waits s.receive.result ∧ s.receive.rxbuf = s.rxbuf) ∨
    (¬ waits s.receive.result ∧ s.receive.rxbuf.length < s.rxbuf.length) := by
  have hdrop {n : Nat} (hn : 1 ≤ n) {b : Byte} {tl : List Byte} (hB : s.rxbuf = b :: tl) :
      (s.rxbuf.drop n).length < s.rxbuf.length := length_drop_lt hn (hB ▸ List.cons_ne_nil b tl)
  rcases s.receive_cases with
    ⟨hx, h⟩ | ⟨n, hx, h⟩ | ⟨tl, hB, h⟩ | ⟨tl, hB, h⟩ | ⟨m, len, body, hB, -, -, -, -, h⟩ | ⟨m, len, body, hB, -, -, hle, htwo, h⟩ <;>
    rw [h]
  · exact .inl ⟨hx, rfl, rfl⟩
  · obtain ⟨hpos, hle, -⟩ := noise_of_extract_discard hx
    exact .inr ⟨by simp [waits], length_drop_lt hpos (List.ne_nil_of_length_pos (by omega))⟩
  · exact .inr ⟨by simp [State.acceptAck, waits], hdrop le_rfl hB⟩
  · exact .inr ⟨by simp [State.acceptNak, waits], hdrop le_rfl hB⟩
  · exact .inr ⟨by simp [State.rejectShort, waits], hdrop le_rfl hB⟩
  · refine .inr ⟨not_waits_acceptReply s _, ?_⟩
    rw [acceptReply_rxbuf, List.length_take_of_le hle]
    exact hdrop (by omega) hB

/-- Settles O56: what one turn does to the tracker and to the parameters, and that it either waits or shortens the buffer. -/
theorem rxstepFrame : Obligations.RxstepFrame := by
  intro s
  obtain ⟨hq, ho⟩ := s.receive_tracker
  obtain ⟨hcfg, -, -, -⟩ := receive_buffer s
  refine ⟨_, exec_rxstep s, hq, hcfg, fun hno => by simp [ho, hno], fun hwait => ?_, fun hno heq => ?_⟩
  · rcases receive_waits_or_shortens s with ⟨-, -, hrx⟩ | ⟨hno, -⟩
    · exact hrx
    · exact absurd hwait hno
  · rcases receive_waits_or_shortens s with ⟨-, hwait, -⟩ | ⟨-, hlt⟩
    · exact hno hwait
    · rw [heq] at hlt
      exact lt_irrefl _ hlt

/-- R156: each turn before the first `WAIT` takes a byte, so there are at most as many as bytes. -/
theorem drain_reaches_wait (s : State) : ∃ k, k ≤ s.rxbuf.length ∧ waits (s.drain (k + 1)).result := by
  induction hn : s.rxbuf.length using Nat.strong_induction_on generalizing s with
  | _ n ih =>
    rcases receive_waits_or_shortens s with ⟨-, hwait, -⟩ | ⟨-, hlt⟩
    · exact ⟨0, Nat.zero_le _, hwait⟩
    · obtain ⟨k, hk, hwait⟩ := ih _ (hn ▸ hlt) s.receive rfl
      exact ⟨k + 1, by omega, hwait⟩

/-- A non-empty buffer with an incomplete item begins with a reply marker. -/
theorem marker_of_extract_incomplete {p : Params} {B : List Byte} (hx : extract p B = .incomplete) (hB : B ≠ []) :
    ∃ m tl, B = m :: tl ∧ isReplyMarker p m = true ∧ ∀ len body, tl = len :: body → B.length < len.toNat := by
  rcases extract_cases p B with ⟨-, hnil | ⟨m, tl, hcons, hm, -, hlen⟩⟩ | ⟨n, h, -⟩ | ⟨b, tl, -, -, h⟩ | ⟨m, len, body, -, -, -, -, h⟩
  · exact absurd hnil hB
  · exact ⟨m, tl, hcons, hm, hlen⟩
  all_goals cases hx.symm.trans h

/-- Settles O57: the dichotomy of `receive_waits_or_shortens`, its iteration, and what an incomplete item looks like. -/
theorem drainingEndsInWait : Obligations.DrainingEndsInWait := by
  refine ⟨fun s t ht hno => ?_, drain_reaches_wait, fun s t ht hwait hB => ?_⟩
  all_goals
    obtain rfl := Host.Outcome.next.inj ht
  · rcases receive_waits_or_shortens s with ⟨-, hwait, -⟩ | ⟨-, hlt⟩
    · exact absurd hwait hno
    · exact hlt
  · rcases receive_waits_or_shortens s with ⟨hx, -, -⟩ | ⟨hno, -⟩
    · exact marker_of_extract_incomplete hx hB
    · exact absurd hwait hno

/-! ## The hand-driven sequence (R112, R155) -/

theorem count_toNat {n : Nat} (hn : n < 2 ^ 32) : (count n).toNat = n := by
  rw [count, BitVec.toNat_ofNat, Nat.mod_eq_of_lt hn]

theorem after_rxdrop {s : State} {n : Word} (hn : n.toNat ≤ s.rxbuf.length) :
    s.after (.rxdrop n) = (s.rxRemove n.toNat).ret .nothing := by
  have ht := exec_rxdrop n s
  rw [if_neg (by omega)] at ht
  exact after_of_exec ht

theorem after_validate {s : State} {n : Word} (htwo : 2 ≤ n.toNat) (hn : n.toNat ≤ s.rxbuf.length) :
    s.after (.validate n) = s.ret (.bit (BitVec.ofBool (valid (s.rxbuf.take n.toNat)))) := by
  refine after_of_exec (congrArg Host.Outcome.next ?_)
  rcases s.withPrefix_cases n (fun f => .bit (BitVec.ofBool (valid f))) with ⟨hlong, -⟩ | ⟨-, hshort, -⟩ | ⟨-, -, heq⟩
  · omega
  · omega
  · exact heq

/-- R155: the hand-driven turn `h` leaves the buffer, the tracker and the queue of `t`, and found what `t` reports. -/
def SameTurn (h : State × Result) (t : State) : Prop :=
  h.1.rxbuf = t.rxbuf ∧ h.1.outstanding = t.outstanding ∧ h.1.q = t.q ∧ t.result = some h.2

/-- VALIDATE answers 1 exactly on a valid frame. -/
theorem result_bit_iff (b : Bool) : (some ⟨.ok, .bit (BitVec.ofBool b)⟩ : Option Result) = some ⟨.ok, .bit 1⟩ ↔ b = true := by
  cases b <;> decide

theorem sameTurn_handReply {s : State} {len : Nat} (htwo : 2 ≤ len) (hle : len ≤ s.rxbuf.length) (hlt : len < 2 ^ 32) :
    SameTurn (s.handReply len) (s.acceptReply (s.rxbuf.take len)) := by
  have hn := count_toNat hlt
  have hlen : (s.rxbuf.take len).length = len := List.length_take_of_le hle
  have hv : s.after (.validate (count len)) = s.ret (.bit (BitVec.ofBool (valid (s.rxbuf.take len)))) := by
    rw [after_validate (by omega) (by omega), hn]
  have hd : (s.after (.validate (count len))).after (.rxdrop (count len)) = (s.rxRemove len).ret .nothing := by
    rw [hv, State.ret, after_ignores_result, after_rxdrop (by omega), hn]
  have hbit : (s.after (.validate (count len))).result = some ⟨.ok, .bit 1⟩ ↔ valid (s.rxbuf.take len) = true := by
    rw [hv, State.ret_result, result_bit_iff]
  simp only [State.handReply, hd, hbit]
  rcases s.acceptReply_cases (s.rxbuf.take len) with ⟨hval, h⟩ | ⟨hval, hne, h⟩ | ⟨k, hval, hk, hkl, h⟩ <;> rw [h, hlen]
  · rw [if_neg (by simp [hval])]
    exact ⟨rfl, rfl, rfl, rfl⟩
  · rw [hlen] at hne
    rw [if_pos hval]
    cases hk : kindOf s.outstanding with
    | none => exact ⟨rfl, rfl, rfl, rfl⟩
    | some k =>
      have hkl : k.replyLength ≠ len := by simpa [expLen, hk] using hne
      simp only [expLen, hk, Option.map_some, if_neg hkl]
      exact ⟨rfl, rfl, rfl, rfl⟩
  · rw [hlen] at hkl
    rw [if_pos hval]
    simp only [expLen, hk, Option.map_some, if_pos hkl]
    exact ⟨rfl, rfl, rfl, rfl⟩

/-- The state after EXTRACT, the first operation of the sequence. -/
def looked (s : State) : State := s.ret (.extracted (extract s.cfg.toParams s.rxbuf))

theorem after_looked_rxdrop {s : State} {n : Word} (hn : n.toNat ≤ s.rxbuf.length) :
    (looked s).after (.rxdrop n) = (s.rxRemove n.toNat).ret .nothing := after_rxdrop (s := looked s) hn

/-- `Complete(len)`: the bytes ACK and NAK, the marker of a short frame, or a frame to be judged (R112). -/
theorem handDriven_of_complete {s : State} {len : Nat} (hx : extract s.cfg.toParams s.rxbuf = .complete len) :
    s.handDriven =
      if s.rxbuf.head? = some ackByte then (((looked s).after (.rxdrop 1)).after .replydone, ⟨.ok, .event .acked⟩)
      else if s.rxbuf.head? = some nakByte then
        (((looked s).after (.rxdrop 1)).after .replydone, ⟨.deviceRejected, .command s.outstanding⟩)
      else if len < 2 then ((looked s).after (.rxdrop (count (max len 1))), ⟨.framingError, .length len⟩)
      else (looked s).handReply len := by
  have hresult : (s.after .extract).result = some ⟨.ok, .extracted (.complete len)⟩ := by rw [← hx]; rfl
  simp only [State.handDriven, hresult]
  rfl

theorem handDriven_of_discard {s : State} {n : Nat} (hx : extract s.cfg.toParams s.rxbuf = .discard n) :
    s.handDriven = ((looked s).after (.rxdrop (count n)), ⟨.ok, .event (.discarded n)⟩) := by
  have hresult : (s.after .extract).result = some ⟨.ok, .extracted (.discard n)⟩ := by rw [← hx]; rfl
  simp only [State.handDriven, hresult]
  rfl

theorem handDriven_of_incomplete {s : State} (hx : extract s.cfg.toParams s.rxbuf = .incomplete) :
    s.handDriven = (looked s, ⟨.ok, .event .wait⟩) := by
  have hresult : (s.after .extract).result = some ⟨.ok, .extracted .incomplete⟩ := by rw [← hx]; rfl
  simp only [State.handDriven, hresult]
  rfl

/-- R155: both sides take the branch of the same outcome, and the operations of R112 remove what RXSTEP removes. -/
theorem sameTurn_handDriven {s : State} (hlt : s.rxbuf.length < 2 ^ 32) : SameTurn s.handDriven s.receive := by
  cases hx : extract s.cfg.toParams s.rxbuf with
  | incomplete =>
    rw [handDriven_of_incomplete hx, receive_of_incomplete hx]
    exact ⟨rfl, rfl, rfl, rfl⟩
  | discard n =>
    obtain ⟨-, hle, -⟩ := noise_of_extract_discard hx
    have hn := count_toNat (hle.trans_lt hlt)
    rw [handDriven_of_discard hx, receive_of_discard hx, after_looked_rxdrop (by omega), hn]
    exact ⟨rfl, rfl, rfl, rfl⟩
  | complete len =>
    obtain ⟨hB, hle, -⟩ := extract_complete_bounds hx
    have hone : (1 : Word).toNat ≤ s.rxbuf.length := List.length_pos_of_ne_nil hB
    rw [handDriven_of_complete hx]
    simp only [State.receive, hx]
    split_ifs with hack hnak hshort
    · rw [after_looked_rxdrop hone]
      exact ⟨rfl, rfl, rfl, rfl⟩
    · rw [after_looked_rxdrop hone]
      exact ⟨rfl, rfl, rfl, rfl⟩
    · have hmax : count (max len 1) = 1 := congrArg count (max_eq_right (by omega))
      rw [hmax, after_looked_rxdrop hone]
      exact ⟨rfl, rfl, rfl, rfl⟩
    · exact sameTurn_handReply (s := looked s) (by omega) hle (hle.trans_lt hlt)

/-- Settles O59, outcome by outcome of the extractor (`sameTurn_handDriven`). -/
theorem rxstepEqualsHandDriven : Obligations.RxstepEqualsHandDriven := by
  intro s t hlt ht
  obtain rfl := Host.Outcome.next.inj ht
  exact sameTurn_handDriven hlt

/-! ## The payload layouts (R150 to R152) -/

/-- A field of `n` bytes, written most significant first, reads back as its unsigned number. -/
theorem ube_be_setWidth {n : Nat} (hn : n ≤ 4) (V : BitVec (8 * n)) : ube (be (V.setWidth 32) n) = V.toNat := by
  have hpow : 2 ^ (8 * n) ≤ 2 ^ 32 := Nat.pow_le_pow_right (by decide) (by omega)
  have hV : (V.setWidth 32).toNat = V.toNat := by
    rw [BitVec.toNat_setWidth, Nat.mod_eq_of_lt (V.isLt.trans_le hpow)]
  rw [ube_be_of_lt (by rw [hV]; exact V.isLt), hV]

theorem sbe_be_setWidth {n : Nat} (hn : n ≤ 4) (V : BitVec (8 * n)) : sbe (be (V.setWidth 32) n) = V.toInt := by
  rw [sbe_eq_bmod, be_length, ube_be_setWidth hn, BitVec.toInt_eq_toNat_bmod]

theorem fieldBits_of_be {f : List Byte} {a n : Nat} (hn : n ≤ 4) {V : BitVec (8 * n)} (h : memRead f a n = be (V.setWidth 32) n) :
    fieldBits f a n = V := by
  rw [fieldBits, h, ube_be_setWidth hn, BitVec.ofNat_toNat, BitVec.setWidth_eq]

theorem fieldBits_of_byte {f : List Byte} {a : Nat} {b : Byte} (h : memRead f a 1 = [b]) : fieldBits f a 1 = b := by
  rw [fieldBits, h, ube_cons, ube]
  simp

/-- A whole word is a field of four bytes. -/
theorem be_word (W : Word) : be W 4 = be (W.setWidth 32) 4 := by rw [BitVec.setWidth_eq]

/-- R150: the get-status reply, read at its offsets. -/
theorem readReply_status {f : List Byte} {cs ds cm : Byte} {P : BitVec (8 * 4)} {V : BitVec (8 * 2)}
    (hcs : memRead f 2 1 = [cs]) (hds : memRead f 3 1 = [ds]) (hcm : memRead f 4 1 = [cm])
    (hP : memRead f 5 4 = be (P.setWidth 32) 4) (hV : memRead f 9 2 = be (V.setWidth 32) 2) :
    readReply .status f = .status ⟨cs, ds, cm, P.toInt, V.toInt⟩ := by
  simp only [readReply, fieldBits_of_byte hcs, fieldBits_of_byte hds, fieldBits_of_byte hcm, hP, hV]
  rw [sbe_be_setWidth (by decide), sbe_be_setWidth (by decide)]

/-- R151: the get-position reply, read at its offsets. -/
theorem readReply_position {f : List Byte} {es ss : Byte} {A B : BitVec (8 * 2)} {P : BitVec (8 * 4)}
    (hes : memRead f 2 1 = [es]) (hA : memRead f 3 2 = be (A.setWidth 32) 2) (hP : memRead f 5 4 = be (P.setWidth 32) 4)
    (hss : memRead f 9 1 = [ss]) (hB : memRead f 10 2 = be (B.setWidth 32) 2) :
    readReply .position f = .position ⟨es, A, P, ss, B⟩ := by
  simp only [readReply, fieldBits_of_byte hes, fieldBits_of_byte hss, fieldBits_of_be (by decide) hA,
    fieldBits_of_be (by decide) hP, fieldBits_of_be (by decide) hB]

/-- R152: the get-drive-status reply, read at its offsets. -/
theorem readReply_drive {f : List Byte} {ds : Byte} {A B C D : BitVec (8 * 2)} (hds : memRead f 2 1 = [ds])
    (hA : memRead f 3 2 = be (A.setWidth 32) 2) (hB : memRead f 5 2 = be (B.setWidth 32) 2)
    (hC : memRead f 7 2 = be (C.setWidth 32) 2) (hD : memRead f 9 2 = be (D.setWidth 32) 2) :
    readReply .drive f = .drive ⟨ds, A, B, C, D⟩ := by
  simp only [readReply, fieldBits_of_byte hds, fieldBits_of_be (by decide) hA, fieldBits_of_be (by decide) hB,
    fieldBits_of_be (by decide) hC, fieldBits_of_be (by decide) hD]

/-- Settles O60: in each layout the bytes at a field's offset are the field's, by evaluation of the frame. -/
theorem replyRecordsAreReadBack : Obligations.ReplyRecordsAreReadBack :=
  ⟨fun _ _ _ _ _ P _ => readReply_status rfl rfl rfl (be_word P) rfl,
    fun _ _ _ _ _ _ P => readReply_position rfl rfl (be_word P) rfl rfl,
    fun _ _ _ _ _ _ _ => readReply_drive rfl rfl rfl rfl rfl⟩

end Sys2Proof.Proofs

/-! PROOFS. Errors and result codes (60_exceptions.md): the illegal operation words (R170), the step without an operation (R171, R180),
and who answers which result code with what information (R161). -/

namespace Sys2Proof.Proofs

open Sys2Proof Sys2Proof.Machine

/-! ## The step without an operation -/

/-- Settles O10: it is the idle branch of the step. -/
theorem stepWithoutOperationChangesNothing : Obligations.StepWithoutOperationChangesNothing :=
  fun _ hops => step_of_ops_nil hops

/-! ## Illegal operation words -/

/-- R78: with a select code that is not reserved, a bit of `RSV` set rejects the word. -/
theorem decodeOp_of_rsv {w : OpWord} (hop : opField w ≠ 15) (hrsv : rsvField w ≠ 0) : decodeOp w = .error .reservedBits := by
  rw [decodeOp, if_neg hop, if_pos hrsv]

theorem exec_reservedOp15 (r : BitVec 44) (s : State) :
    exec (.reservedOp15 r) s = .next { s with result := some ⟨.badOperation, .nothing⟩ } := rfl

/-- Settles O5: select code 15 decodes to the reserved row, whatever `RSV` is; with any other the decoder rejects the word, and the step
answers for it. -/
theorem illegalWordsAnswerBadOperation : Obligations.IllegalWordsAnswerBadOperation := by
  refine ⟨fun s w rest hops hillegal => ?_, exec_reservedOp15⟩
  by_cases hop : opField w = 15
  · exact (step_of_decodeOp_ok hops (decodeOp_of_reserved hop)).trans (exec_reservedOp15 _ _)
  · exact step_of_decodeOp_error hops (decodeOp_of_rsv hop (hillegal.resolve_left hop))

/-! ## Result codes -/

/-- The state `t`, left by a word that decodes to `i` or is rejected, holds a result of a row of R161 that lists the word's operation,
with the information that row names. -/
def AnswersAsListed (i : Option Instr) (t : State) : Prop :=
  ∃ r, t.result = some r ∧ raises r.rc i = true ∧ carries r.rc r.data = true

theorem answersAsListed_ret {i : Option Instr} (hok : raises .ok i = true) (s : State) (d : ResultData) : AnswersAsListed i (s.ret d) :=
  ⟨_, s.ret_result d, hok, rfl⟩

theorem answersAsListed_raise {i : Option Instr} {rc : ResultCode} {info : ResultData} (hraises : raises rc i = true)
    (hcarries : carries rc info = true) (s : State) : AnswersAsListed i (s.raise rc info) :=
  ⟨_, s.raise_result rc info, hraises, hcarries⟩

/-- R97, R121: the checks of `CMD` and `ALEN` raise `InvalidArgument` with the offending operand. -/
theorem answersAsListed_withCommand {i : Option Instr} (hinvalid : raises .invalidArgument i = true) (s : State) (cmd : BitVec 4)
    (alen : BitVec 3) (k : TxCommand → State) (hk : ∀ c, AnswersAsListed i (k c)) : AnswersAsListed i (s.withCommand cmd alen k) := by
  rcases s.withCommand_cases cmd alen k with ⟨-, h⟩ | ⟨c, -, -, h⟩ | ⟨c, -, -, h⟩ <;> rw [h]
  · exact answersAsListed_raise hinvalid rfl s
  · exact answersAsListed_raise hinvalid rfl s
  · exact hk c

/-- R91, R93: the range checks raise `InvalidArgument` with the count, then `FramingError` with the short length. -/
theorem answersAsListed_withPrefix {i : Instr} (hi : readsPrefix i = true) (hinvalid : raises .invalidArgument (some i) = true)
    (hok : raises .ok (some i) = true) (s : State) (n : Word) (k : List Byte → ResultData) :
    AnswersAsListed (some i) (s.withPrefix n k) := by
  rcases s.withPrefix_cases n k with ⟨-, h⟩ | ⟨-, -, h⟩ | ⟨-, -, h⟩ <;> rw [h]
  · exact answersAsListed_raise hinvalid rfl s
  · exact answersAsListed_raise (by simp [raises, hi]) rfl s
  · exact answersAsListed_ret hok s _

/-- R121: ENQUEUE's own tests, of the value and of the queue. -/
theorem answersAsListed_enqueue {cmd : BitVec 4} {alen : BitVec 3} {value : Word} {s t : State}
    (ht : exec (.enqueue cmd alen value) s = .next t) : AnswersAsListed (some (.enqueue cmd alen value)) t := by
  obtain rfl := Host.Outcome.next.inj ht
  refine answersAsListed_withCommand rfl s cmd alen _ fun c => ?_
  split_ifs
  · exact answersAsListed_raise rfl rfl s
  · exact answersAsListed_raise rfl rfl s
  · exact answersAsListed_ret rfl _ _

/-- R123: `Blocked`, `Empty`, or the released frame. -/
theorem answersAsListed_popnext {s t : State} (ht : exec .popnext s = .next t) : AnswersAsListed (some .popnext) t := by
  rcases exec_popnext_cases ht with ⟨c, -, hr⟩ | ⟨-, -, hr⟩ | ⟨e, -, -, -, hr⟩ <;> exact ⟨_, hr, rfl, rfl⟩

/-- R146 to R148: the verdict on a reply frame that RXSTEP meets. -/
theorem answersAsListed_acceptReply (s : State) (f : List Byte) : AnswersAsListed (some .rxstep) (s.acceptReply f) := by
  rcases s.acceptReply_cases f with ⟨-, h⟩ | ⟨-, -, h⟩ | ⟨k, -, -, -, h⟩ <;> rw [h]
  · exact answersAsListed_raise rfl rfl _
  · exact answersAsListed_raise rfl rfl _
  · exact answersAsListed_ret rfl _ _

/-- R141 to R148: the branches of RXSTEP, of which NAK, the short length and the reply frame can raise an error. -/
theorem answersAsListed_receive (s : State) : AnswersAsListed (some .rxstep) s.receive := by
  rcases s.receive_cases with
    ⟨-, h⟩ | ⟨n, -, h⟩ | ⟨tl, -, h⟩ | ⟨tl, -, h⟩ | ⟨m, len, body, -, -, -, -, -, h⟩ | ⟨m, len, body, -, -, -, -, -, h⟩ <;> rw [h]
  · exact answersAsListed_ret rfl _ _
  · exact answersAsListed_ret rfl _ _
  · exact answersAsListed_ret rfl _ _
  · exact answersAsListed_raise rfl rfl _
  · exact answersAsListed_raise rfl rfl _
  · exact answersAsListed_acceptReply s _

/-- Every host operation answers as R161 lists it. The rows of the wire are no operations of the host, and the table names none. -/
theorem exec_answersAsListed {i : Instr} (hwire : onWire i = false) {s t : State} (ht : exec i s = .next t) :
    AnswersAsListed (some i) t := by
  cases i
  case enqueue => exact answersAsListed_enqueue ht
  case popnext => exact answersAsListed_popnext ht
  all_goals
    obtain rfl := Host.Outcome.next.inj ht
  case nop | reset | replydone | isidle | clearq | extract | rxflush => exact answersAsListed_ret rfl _ _
  case encode => exact answersAsListed_withCommand rfl _ _ _ _ fun _ => answersAsListed_ret rfl _ _
  case rxpush | rxdrop =>
    split_ifs
    · exact answersAsListed_raise rfl rfl _
    · exact answersAsListed_ret rfl _ _
  case checksum | validate => exact answersAsListed_withPrefix rfl rfl rfl _ _ _
  case rxstep => exact answersAsListed_receive s
  case reservedOp15 => exact answersAsListed_raise rfl rfl _
  all_goals cases hwire

/-- Settles O23: a word is taken, so the step either rejects it with `BadOperation` or runs the operation it decodes to, which is no row
of the wire. -/
theorem resultCodesAsListed : Obligations.ResultCodesAsListed := by
  refine ⟨fun s t w rest hops ht => ?_, rfl⟩
  change AnswersAsListed s.nextOp t
  cases hdec : decodeOp w with
  | error e =>
    have hnone : s.nextOp = none := by simp only [State.nextOp, hops, hdec, Except.toOption]
    obtain rfl := Host.Outcome.next.inj ((step_of_decodeOp_error hops hdec).symm.trans ht)
    rw [hnone]
    exact answersAsListed_raise rfl rfl _
  | ok i =>
    have hsome : s.nextOp = some i := by simp only [State.nextOp, hops, hdec, Except.toOption]
    rw [hsome]
    exact exec_answersAsListed (onWire_of_decodeOp hdec) ((step_of_decodeOp_ok hops hdec).symm.trans ht)

end Sys2Proof.Proofs

/-! PROOFS. Reset and the hazards of the host interface (70_reset_and_hazards.md): RESET (R185), and the room a drained receive buffer
has for the next byte (R195). -/

namespace Sys2Proof.Proofs

open Sys2Proof Sys2Proof.Machine

/-! ## A drained buffer takes the next byte -/

/-- R195: an item is incomplete only while fewer bytes are held than the one length byte declares, so fewer than 255. -/
theorem length_le_of_extract_incomplete {p : Params} {B : List Byte} (hx : extract p B = .incomplete) : B.length ≤ 254 := by
  by_cases hB : B = []
  · simp [hB]
  · obtain ⟨m, tl, rfl, -, hdeclared⟩ := marker_of_extract_incomplete hx hB
    cases tl with
    | nil => simp
    | cons len body =>
      have hlt := hdeclared len body rfl
      have hbyte := len.isLt
      omega

/-- R9(d), R109: below the least capacity a configuration can have, RXPUSH stores its byte. -/
theorem exec_rxpush_of_length_le {s : State} (hlen : s.rxbuf.length ≤ 254) (b : Byte) :
    exec (.rxpush b) s = .next { s with rxbuf := s.rxbuf ++ [b], result := some ⟨.ok, .nothing⟩ } := by
  have hbelow : s.cfg.rxbufCap ≠ some s.rxbuf.length := fun hcap => by
    have hleast := config_rxbufCap s.cfg _ hcap
    omega
  rw [exec_rxpush, if_neg hbelow]

/-- Settles O58: a turn that answers `WAIT` has left a buffer whose item is incomplete as it is. -/
theorem drainedBufferTakesNextByte : Obligations.DrainedBufferTakesNextByte := by
  intro s t b ht hwait
  obtain rfl := Host.Outcome.next.inj ht
  have hlen : s.receive.rxbuf.length ≤ 254 := by
    rcases receive_waits_or_shortens s with ⟨hx, -, hrx⟩ | ⟨hno, -⟩
    · rw [hrx]
      exact length_le_of_extract_incomplete hx
    · exact absurd hwait hno
  exact ⟨hlen, exec_rxpush_of_length_le hlen b⟩

/-! ## RESET -/

/-- Settles O28: RESET and CLEARQ write the same values to what they empty, and the status outputs are those of the emptied state. -/
theorem resetEmptiesAllState : Obligations.ResetEmptiesAllState := by
  obtain ⟨-, -, hselect, -⟩ := selectCodesDecode
  refine ⟨hselect, ?_⟩
  intro s t
  have hreset : exec .reset s = .next t := rfl
  obtain ⟨-, -, -, hvalues⟩ := resetValues
  obtain ⟨-, -, -, hout, hqcount, hrxcount, hidle, hpending⟩ := hvalues s t (.inl hreset)
  refine ⟨hreset, rfl, fun u hu => ?_, hqcount, hrxcount, hout, hidle, hpending⟩
  obtain rfl := Host.Outcome.next.inj hu
  rfl

end Sys2Proof.Proofs
